-- ==== Sys2Proof/Word.lean ====
section
/-! DEFINITION. The word type of the HD44780 protocol engine.

Rule R11 (00_scope.md): every byte operand, pin identifier and row-offset entry is an 8-bit unsigned value. -/

namespace Sys2Proof

/-- An 8-bit unsigned value (R11). -/
abbrev Byte := BitVec 8

end Sys2Proof
end

