-- ==== Sys2Proof/Syntax.lean ====
section
/-! DEFINITION. The requests of the engine (R93, 30_encoding.md), their formats (R91) and the refusal reasons (R253,
60_exceptions.md). One constructor of `Instr` per row of spec/opcode_table.json, operands in the order of R93. -/

namespace Sys2Proof

/-- A request (R93). Every operand is one byte; the text of PRINT is its `n` bytes (R96). -/
inductive Instr where
  | bindCtrl (rw en rs : Byte)
  | bindData4 (d0 d1 d2 d3 : Byte)
  | bindData8 (d0 d1 d2 d3 d4 d5 d6 d7 : Byte)
  | begin (cols rows font : Byte)
  | pulseEnable
  | write4bits (v : Byte)
  | write8bits (v : Byte)
  | send (v mode : Byte)
  | command (v : Byte)
  | write (v : Byte)
  | displayOn
  | displayOff
  | cursorOn
  | cursorOff
  | autoscrollOn
  | autoscrollOff
  | leftToRight
  | rightToLeft
  | scrollLeft
  | scrollRight
  | clear
  | home
  | setCursor (col row : Byte)
  | createChar (slot p0 p1 p2 p3 p4 p5 p6 p7 : Byte)
  | print (n : Byte) (text : List Byte)
deriving DecidableEq, Repr

/-- The request formats (R91). -/
inductive Format where
  | F0 | F1 | F2 | F3 | F4 | F8 | F9 | FV
deriving DecidableEq, Repr

/-- The refusal reasons, in the order of their codes (R253). -/
inductive Reason where
  | badOpcode
  | truncated
  | busy
  | rebindAfterBegin
  | notBegun
  | badPin
  | badOperand
  | badRows
  | notBound
  | aliasedPins
  | widthMismatch
deriving DecidableEq, Repr

end Sys2Proof
end

