-- ==== Sys2Proof/WellFormed.lean ====
section
/-! DEFINITION. Which terms of `Instr` are requests some byte string encodes.

Every operand is a byte and the decoder accepts every operand byte (R97), so the only check is PRINT's: its length byte is
the number of its text bytes (R90, R96). -/

namespace Sys2Proof

/-- PRINT's `n` is the number of text bytes (R96); every other term is a request (R97). -/
def Instr.wellFormed : Instr → Bool
  | .print n text => text.length == n.toNat
  | .bindCtrl _ _ _ => true
  | .bindData4 _ _ _ _ => true
  | .bindData8 _ _ _ _ _ _ _ _ => true
  | .begin _ _ _ => true
  | .pulseEnable => true
  | .write4bits _ => true
  | .write8bits _ => true
  | .send _ _ => true
  | .command _ => true
  | .write _ => true
  | .displayOn => true
  | .displayOff => true
  | .cursorOn => true
  | .cursorOff => true
  | .autoscrollOn => true
  | .autoscrollOff => true
  | .leftToRight => true
  | .rightToLeft => true
  | .scrollLeft => true
  | .scrollRight => true
  | .clear => true
  | .home => true
  | .setCursor _ _ => true
  | .createChar _ _ _ _ _ _ _ _ _ => true

end Sys2Proof
end

