-- ==== Sys2Proof/Decode.lean ====
section
/-! DEFINITION. The decoder of R100 (30_encoding.md), total on any byte string, and the encoder written from the same
tables R91 and R93. -/

namespace Sys2Proof

/-- A decoding result: the request and the bytes after it, or the refusal reason (R100). -/
abbrev Decoded := Except Reason (Instr × List Byte)

/-- Format F0: no operand bytes (R91). -/
def formatF0 (i : Instr) (args : List Byte) : Decoded := .ok (i, args)

/-- Format F1: one operand byte (R91), else Truncated (R95). -/
def formatF1 (k : Byte → Instr) : List Byte → Decoded
  | a :: rest => .ok (k a, rest)
  | _ => .error .truncated

/-- Format F2: two operand bytes (R91), else Truncated (R95). -/
def formatF2 (k : Byte → Byte → Instr) : List Byte → Decoded
  | a :: b :: rest => .ok (k a b, rest)
  | _ => .error .truncated

/-- Format F3: three operand bytes (R91), else Truncated (R95). -/
def formatF3 (k : Byte → Byte → Byte → Instr) : List Byte → Decoded
  | a :: b :: c :: rest => .ok (k a b c, rest)
  | _ => .error .truncated

/-- Format F4: four operand bytes (R91), else Truncated (R95). -/
def formatF4 (k : Byte → Byte → Byte → Byte → Instr) : List Byte → Decoded
  | a :: b :: c :: d :: rest => .ok (k a b c d, rest)
  | _ => .error .truncated

/-- Format F8: eight operand bytes (R91), else Truncated (R95). -/
def formatF8 (k : Byte → Byte → Byte → Byte → Byte → Byte → Byte → Byte → Instr) : List Byte → Decoded
  | a :: b :: c :: d :: e :: f :: g :: h :: rest => .ok (k a b c d e f g h, rest)
  | _ => .error .truncated

/-- Format F9: nine operand bytes (R91), else Truncated (R95). -/
def formatF9 (k : Byte → Byte → Byte → Byte → Byte → Byte → Byte → Byte → Byte → Instr) : List Byte → Decoded
  | s :: a :: b :: c :: d :: e :: f :: g :: h :: rest => .ok (k s a b c d e f g h, rest)
  | _ => .error .truncated

/-- Format FV: the length byte `n`, then `n` bytes (R91, R96), else Truncated (R95, R100). -/
def formatFV (k : Byte → List Byte → Instr) : List Byte → Decoded
  | n :: rest =>
    if (rest.take n.toNat).length < n.toNat then .error .truncated
    else .ok (k n (rest.take n.toNat), rest.drop n.toNat)
  | [] => .error .truncated

/-- The opcode map R93: the format of an opcode applied to the bytes after it; an opcode outside the map is BadOpcode
(R94). -/
def decodeOpcode (op : Nat) (args : List Byte) : Decoded :=
  match op with
  | 0x10 => formatF3 .bindCtrl args
  | 0x11 => formatF4 .bindData4 args
  | 0x12 => formatF8 .bindData8 args
  | 0x20 => formatF3 .begin args
  | 0x30 => formatF0 .pulseEnable args
  | 0x31 => formatF1 .write4bits args
  | 0x32 => formatF1 .write8bits args
  | 0x33 => formatF2 .send args
  | 0x34 => formatF1 .command args
  | 0x35 => formatF1 .write args
  | 0x40 => formatF0 .displayOn args
  | 0x41 => formatF0 .displayOff args
  | 0x42 => formatF0 .cursorOn args
  | 0x43 => formatF0 .cursorOff args
  | 0x44 => formatF0 .autoscrollOn args
  | 0x45 => formatF0 .autoscrollOff args
  | 0x46 => formatF0 .leftToRight args
  | 0x47 => formatF0 .rightToLeft args
  | 0x48 => formatF0 .scrollLeft args
  | 0x49 => formatF0 .scrollRight args
  | 0x4A => formatF0 .clear args
  | 0x4B => formatF0 .home args
  | 0x50 => formatF2 .setCursor args
  | 0x51 => formatF9 .createChar args
  | 0x60 => formatFV .print args
  | _ => .error .badOpcode

/-- `decode(bytes)` of R100: an empty request is Truncated; otherwise byte 0 is the opcode. -/
def decode : List Byte → Decoded
  | [] => .error .truncated
  | op :: args => decodeOpcode op.toNat args

/-- The opcode byte of a request (R93). -/
def Instr.opcode : Instr → Byte
  | .bindCtrl _ _ _ => 0x10
  | .bindData4 _ _ _ _ => 0x11
  | .bindData8 _ _ _ _ _ _ _ _ => 0x12
  | .begin _ _ _ => 0x20
  | .pulseEnable => 0x30
  | .write4bits _ => 0x31
  | .write8bits _ => 0x32
  | .send _ _ => 0x33
  | .command _ => 0x34
  | .write _ => 0x35
  | .displayOn => 0x40
  | .displayOff => 0x41
  | .cursorOn => 0x42
  | .cursorOff => 0x43
  | .autoscrollOn => 0x44
  | .autoscrollOff => 0x45
  | .leftToRight => 0x46
  | .rightToLeft => 0x47
  | .scrollLeft => 0x48
  | .scrollRight => 0x49
  | .clear => 0x4A
  | .home => 0x4B
  | .setCursor _ _ => 0x50
  | .createChar _ _ _ _ _ _ _ _ _ => 0x51
  | .print _ _ => 0x60

/-- The format of a request (R93). -/
def Instr.format : Instr → Format
  | .bindCtrl _ _ _ => .F3
  | .bindData4 _ _ _ _ => .F4
  | .bindData8 _ _ _ _ _ _ _ _ => .F8
  | .begin _ _ _ => .F3
  | .pulseEnable => .F0
  | .write4bits _ => .F1
  | .write8bits _ => .F1
  | .send _ _ => .F2
  | .command _ => .F1
  | .write _ => .F1
  | .displayOn => .F0
  | .displayOff => .F0
  | .cursorOn => .F0
  | .cursorOff => .F0
  | .autoscrollOn => .F0
  | .autoscrollOff => .F0
  | .leftToRight => .F0
  | .rightToLeft => .F0
  | .scrollLeft => .F0
  | .scrollRight => .F0
  | .clear => .F0
  | .home => .F0
  | .setCursor _ _ => .F2
  | .createChar _ _ _ _ _ _ _ _ _ => .F9
  | .print _ _ => .FV

/-- The length in bytes of a request of format `f` whose byte 1 is `b1` (R91: only FV reads it). -/
def Format.length (f : Format) (b1 : Byte) : Nat :=
  match f with
  | .F0 => 1
  | .F1 => 2
  | .F2 => 3
  | .F3 => 4
  | .F4 => 5
  | .F8 => 9
  | .F9 => 10
  | .FV => 2 + b1.toNat

/-- The operand bytes of a request, operand 1 first (R90, R91). -/
def Instr.operands : Instr → List Byte
  | .bindCtrl rw en rs => [rw, en, rs]
  | .bindData4 d0 d1 d2 d3 => [d0, d1, d2, d3]
  | .bindData8 d0 d1 d2 d3 d4 d5 d6 d7 => [d0, d1, d2, d3, d4, d5, d6, d7]
  | .begin cols rows font => [cols, rows, font]
  | .pulseEnable => []
  | .write4bits v => [v]
  | .write8bits v => [v]
  | .send v mode => [v, mode]
  | .command v => [v]
  | .write v => [v]
  | .displayOn => []
  | .displayOff => []
  | .cursorOn => []
  | .cursorOff => []
  | .autoscrollOn => []
  | .autoscrollOff => []
  | .leftToRight => []
  | .rightToLeft => []
  | .scrollLeft => []
  | .scrollRight => []
  | .clear => []
  | .home => []
  | .setCursor col row => [col, row]
  | .createChar slot p0 p1 p2 p3 p4 p5 p6 p7 => [slot, p0, p1, p2, p3, p4, p5, p6, p7]
  | .print n text => n :: text

/-- The bytes of a request: its opcode byte, then its operand bytes (R90). -/
def encode (i : Instr) : List Byte := i.opcode :: i.operands

/-- The longest request: PRINT with 255 text bytes (R96). -/
def maxRequestBytes : Nat := 257

/-- The bytes of a table word: byte k is bits 8k+7..8k. -/
def wordBytes (nbits w : Nat) : List Byte :=
  (List.range ((nbits + 7) / 8)).map fun k => BitVec.ofNat 8 (w >>> (8 * k))

/-- A table word with zero bytes after it, up to the longest request. -/
def paddedWord (nbits w : Nat) : List Byte :=
  wordBytes nbits w ++ List.replicate (maxRequestBytes - (nbits + 7) / 8) 0

/-- The request the decoder reads from a table word (zero operand bytes above the word). -/
def decodeTableWord (nbits w : Nat) : Option Instr :=
  match decode (paddedWord nbits w) with
  | .ok (i, _) => some i
  | .error _ => none

/-- The bytes of exactly the one request a table word stands for (what decodes is its encoding); the word's own bytes where
none does. -/
def tableRequest (nbits w : Nat) : List Byte :=
  match decodeTableWord nbits w with
  | some i => encode i
  | none => wordBytes nbits w

end Sys2Proof
end

