-- ==== Sys2Proof/Config.lean ====
section
/-! DEFINITION. The instantiation parameters of one engine: ports, pin count, delays (R8, R9, R112).

The spec makes each of them an argument of the model, fixed when the instance is constructed. They are kept in the field
`State.cfg`, which no request writes, so a statement about every state holds for every value of them. -/

namespace Sys2Proof

/-- An opaque port identifier (R8): the engine only compares ports. -/
structure Port where
  id : Nat
deriving DecidableEq, Repr

/-- The parameters of one instance (R8, R9; `fmtBuf` is P_FMT_BUF of R112, used by the host-side pseudo-operation only). -/
structure Config where
  portData : Port
  portRW : Port
  portEN : Port
  portRS : Port
  pinCount : Nat
  tPowerOn : Nat
  tInit1 : Nat
  tInit2 : Nat
  tInit3 : Nat
  tEnPre : Nat
  tEnHigh : Nat
  tEnSettle : Nat
  tClear : Nat
  tHome : Nat
  fmtBuf : Nat
deriving DecidableEq, Repr

/-- The defaults of R8 and R9. The four ports have no default in the spec: DESIGN CHOICE, four different ones
(log entry 4; unsafe only for a claim about `State.reset` itself). -/
def Config.default : Config where
  portData := ⟨0⟩
  portRW := ⟨1⟩
  portEN := ⟨2⟩
  portRS := ⟨3⟩
  pinCount := 16
  tPowerOn := 50
  tInit1 := 5
  tInit2 := 5
  tInit3 := 1
  tEnPre := 1
  tEnHigh := 1
  tEnSettle := 1
  tClear := 2
  tHome := 2
  fmtBuf := 100

/-- The constraints on the parameters: each delay at least the source's minimum (R9), and a pin range that does not reach
the sentinel 0xFF (DEDUCED from 92_eei_decisions.md D6, "0xFF is outside every pin range"; log entry 18). -/
abbrev Config.Ok (c : Config) : Prop :=
  50 ≤ c.tPowerOn ∧ 5 ≤ c.tInit1 ∧ 5 ≤ c.tInit2 ∧ 1 ≤ c.tInit3 ∧ 1 ≤ c.tEnPre ∧ 1 ≤ c.tEnHigh ∧ 1 ≤ c.tEnSettle ∧
    2 ≤ c.tClear ∧ 2 ≤ c.tHome ∧ c.pinCount ≤ 255

/-- The default timings (R9). -/
abbrev Config.DefaultTimings (c : Config) : Prop :=
  c.tPowerOn = 50 ∧ c.tInit1 = 5 ∧ c.tInit2 = 5 ∧ c.tInit3 = 1 ∧ c.tEnPre = 1 ∧ c.tEnHigh = 1 ∧ c.tEnSettle = 1 ∧
    c.tClear = 2 ∧ c.tHome = 2

end Sys2Proof
end

