-- ==== Sys2Proof/Machine/State.lean ====
section
/-! DEFINITION. The architectural state of one engine instance (10_state.md R30 to R61), its events (R58), the steps a
request's body is made of (R45), the host's inputs, and construction (R60, R280). -/

namespace Sys2Proof.Machine

/-- The level of a bus line (R52): UNDRIVEN, UNKNOWN, or driven to 0 (`false`) or 1 (`true`). -/
inductive Level where
  | undriven
  | unknown
  | driven (level : Bool)
deriving DecidableEq, Repr

/-- The roles of the bus lines: RS, RW, EN, D0 to D7 (R52). -/
inductive Role where
  | rs
  | rw
  | en
  | d (i : Fin 8)
deriving DecidableEq, Repr

/-- The levels of the bus lines (R52). -/
structure Lines where
  rs : Level
  rw : Level
  en : Level
  d : Vector Level 8
deriving DecidableEq, Repr

/-- A backend event (R58). A pin identifier is passed as it stands (R59). -/
inductive Event where
  | enableClock (port : Port)
  | configureOutput (port : Port) (pin : Byte)
  | setLevel (role : Role) (port : Port) (pin : Byte) (level : Bool)
  | delayMs (n : Nat)
deriving DecidableEq, Repr

/-- The number of bound data lines: 0, 4 or 8 (R41). -/
inductive DataCount where
  | zero
  | four
  | eight
deriving DecidableEq, Repr

/-- The lifecycle (R44). -/
inductive Lifecycle where
  | constructed
  | initializing
  | ready
deriving DecidableEq, Repr

/-- The phases of BEGIN (R171). -/
inductive InitPhase where
  | S1 | S2 | S3 | S4 | S5 | S6 | S7 | S8 | S9
deriving DecidableEq, Repr

/-- The three configuration bytes (R35). -/
inductive ConfReg where
  | function
  | control
  | entryMode
deriving DecidableEq, Repr

/-- A register write of a request's body. The configuration bytes have no other write than `set` and `clr` of a mask (R35). -/
inductive RegWrite where
  | set (r : ConfReg) (mask : Byte)
  | clr (r : ConfReg) (mask : Byte)
  | numRows (n : Nat)
  | rowOffset (table : Vector Byte 4)
  | pins (rw en rs : Byte)
  | ctrlBound
  | data (pins : Vector Byte 8)
  | dataCount (c : DataCount)
  | lifecycle (l : Lifecycle)
  | result (r : Option Byte)
deriving DecidableEq, Repr

/-- One element of a request's expansion (R45): a register write, or an event to emit (R14). -/
inductive Micro where
  | write (w : RegWrite)
  | emit (e : Event)
deriving DecidableEq, Repr

/-- The sequencer (R45): IDLE, or BUSY with the current request and the position, the number of events emitted so far.
`rest` is what is left of the expansion fixed at acceptance (R45, R46; log entry 3). -/
inductive Seq where
  | idle
  | busy (request : Instr) (position : Nat) (rest : List Micro)
deriving DecidableEq, Repr

/-- What the host does next at the request port (R7, R258; log entry 2): present bytes and wait until the request has
run to completion (`call`), present bytes and not wait (`post`), or let the block go on by itself for a step (`wait`). -/
inductive Input where
  | call (bytes : List Byte)
  | post (bytes : List Byte)
  | wait
deriving DecidableEq, Repr

/-- Machine faults: there is none. "The block raises no exceptions and has no traps" (R250, 60_exceptions.md): no request
and no host input raises one, so the type has no constructor (safe: nothing is stopped). -/
inductive Fault
deriving DecidableEq, Repr

/-- Reasons for which the MODEL gives an instruction no meaning. The spec's own refusals (R251) are next states, see
`State.refuse`. -/
inductive Refusal where
  /-- Raised by a refused arm of `exec` only: an instruction that has no meaning yet (safe). No arm raises it now. -/
  | notModelled (mnemonic : String)
deriving DecidableEq, Repr

/-- The state of one engine (R31): the display-state registers, the pin map, the lifecycle and sequencer, the refusal mark
and result, then the bus lines (R52), the trace of emitted events (R58), the instance's parameters (R8, R9), and the
host's coming inputs (the model's own field, log entry 2). -/
structure State where
  function : Byte
  control : Byte
  entryMode : Byte
  numRows : Nat
  rowOffset : Vector Byte 4
  pinRW : Byte
  pinEN : Byte
  pinRS : Byte
  ctrlBound : Bool
  data : Vector Byte 8
  dataCount : DataCount
  lifecycle : Lifecycle
  seq : Seq
  refused : Bool
  lastRefusal : Option (Reason × List Byte)
  result : Option Byte
  lines : Lines
  trace : List Event
  cfg : Config
  inputs : List Input
deriving DecidableEq, Repr

/-- Every line UNDRIVEN (R53, R60). -/
def Lines.reset : Lines where
  rs := .undriven
  rw := .undriven
  en := .undriven
  d := #v[.undriven, .undriven, .undriven, .undriven, .undriven, .undriven, .undriven, .undriven]

/-- Construction with the parameters `c` is reset (R60, R280). -/
def State.construct (c : Config) : State where
  function := 0x00
  control := 0x00
  entryMode := 0x00
  numRows := 0
  rowOffset := #v[0x00, 0x00, 0x00, 0x00]
  pinRW := 0xFF
  pinEN := 0xFF
  pinRS := 0xFF
  ctrlBound := false
  data := #v[0xFF, 0xFF, 0xFF, 0xFF, 0xFF, 0xFF, 0xFF, 0xFF]
  dataCount := .zero
  lifecycle := .constructed
  seq := .idle
  refused := false
  lastRefusal := none
  result := none
  lines := Lines.reset
  trace := []
  cfg := c
  inputs := []

/-- The machine right after construction with the default parameters (R60, R8, R9; the ports: log entry 4). -/
def State.reset : State := State.construct Config.default

end Sys2Proof.Machine
end

