-- ==== Sys2Proof/Machine/Flags.lean ====
section
/-! DEFINITION. The configuration bytes' fields (R32 to R35), the flags requests read (R50), and the command bytes the
engine emits (R101 to R109). The block has no condition codes (R30).

Every bit position and command value here is the spec's own general knowledge (93_implementation_defined.md G3, G7; log
entry 9, PRESUMED). -/

namespace Sys2Proof.Machine

/-- `function`: bit 4, 8-bit bus mode (R32). -/
def maskDL : Byte := 0x10
/-- `function`: bit 3, the two-line function bit (R32). -/
def maskN : Byte := 0x08
/-- `function`: bit 2, taller font (R32). -/
def maskF : Byte := 0x04
/-- `control`: bit 2, display on (R33). -/
def maskD : Byte := 0x04
/-- `control`: bit 1, cursor on (R33). -/
def maskC : Byte := 0x02
/-- `control`: bit 0, blink on (R33). -/
def maskB : Byte := 0x01
/-- `entryMode`: bit 1, left-to-right (R34). -/
def maskID : Byte := 0x02
/-- `entryMode`: bit 0, autoscroll (R34). -/
def maskS : Byte := 0x01

/-- `set(reg, m)` is `reg <- reg | m` (R35). -/
def setBits (reg m : Byte) : Byte := reg ||| m

/-- `clr(reg, m)` is `reg <- reg & ~m` (R35). -/
def clrBits (reg m : Byte) : Byte := reg &&& ~~~m

/-- `function.DL`: true in 8-bit bus mode (R32). -/
def State.dl (s : State) : Bool := s.function.getLsbD 4

/-- NotBegun: `lifecycle != READY` (R252). -/
def State.notBegun (s : State) : Bool := s.lifecycle != .ready

/-- RebindAfterBegin: `lifecycle != CONSTRUCTED` (R252). -/
def State.rebindAfterBegin (s : State) : Bool := s.lifecycle != .constructed

/-- NotBound: `ctrlBound = false` or `dataCount = 0` (R252). -/
def State.notBound (s : State) : Bool := !s.ctrlBound || s.dataCount == .zero

/-- Clear display (R102). -/
def cmdClear : Byte := 0x01

/-- Return home (R102). -/
def cmdHome : Byte := 0x02

/-- Entry mode set (R103). -/
def cmdEntryMode (entryMode : Byte) : Byte := 0x04 ||| entryMode

/-- Display control (R104). -/
def cmdControl (control : Byte) : Byte := 0x08 ||| control

/-- Function set (R105). -/
def cmdFunction (function : Byte) : Byte := 0x20 ||| function

/-- Cursor/display shift, `0x10 | SC<<3 | RL<<2` (R106). -/
def cmdShift (sc rl : Bool) : Byte := 0x10 ||| (if sc then 0x08 else 0x00) ||| (if rl then 0x04 else 0x00)

/-- Set CGRAM address (R107). -/
def cmdSetCgram (a : Byte) : Byte := 0x40 ||| a

/-- Set DDRAM address, from the 9-bit sum of R220, taken mod 256 (R108, R221). -/
def cmdSetDdram (sum : BitVec 9) : Byte := (0x80#9 ||| sum).setWidth 8

/-- The first handshake nibble (R109). -/
def nibbleReset : Byte := 0x03

/-- The nibble that commits to 4-bit mode (R109). -/
def nibbleFourBit : Byte := 0x02

/-- The command classes of R101, by the most significant 1 bit of the byte; 0x00 has none. -/
inductive CommandClass where
  | clearDisplay
  | returnHome
  | entryModeSet
  | displayControl
  | shift
  | functionSet
  | setCgram
  | setDdram
deriving DecidableEq, Repr

/-- The class of a command byte (R101). -/
def commandClass (v : Byte) : Option CommandClass :=
  if v.getLsbD 7 then some .setDdram
  else if v.getLsbD 6 then some .setCgram
  else if v.getLsbD 5 then some .functionSet
  else if v.getLsbD 4 then some .shift
  else if v.getLsbD 3 then some .displayControl
  else if v.getLsbD 2 then some .entryModeSet
  else if v.getLsbD 1 then some .returnHome
  else if v.getLsbD 0 then some .clearDisplay
  else none

/-- The refusal code of a reason (R253). -/
def reasonCode : Reason → Nat
  | .badOpcode => 1
  | .truncated => 2
  | .busy => 3
  | .rebindAfterBegin => 4
  | .notBegun => 5
  | .badPin => 6
  | .badOperand => 7
  | .badRows => 8
  | .notBound => 9
  | .aliasedPins => 10
  | .widthMismatch => 11

end Sys2Proof.Machine
end

