-- ==== Sys2Proof/Machine/Operands.lean ====
section
/-! DEFINITION. The operand forms: pin identifiers (R121, R38), role resolution (R59), the active roles (R127, R128), the
clock-port list (R126), nibbles (R74), rows and columns (R220, R221), CGRAM slots (R226). -/

namespace Sys2Proof.Machine

/-- The RW sentinel UNUSED (R38), also the unbound pin value (R41, R60). -/
def unused : Byte := 0xFF

/-- `pinOK(p)` is `p < P_PIN_COUNT` (R121). -/
def State.pinOK (s : State) (p : Byte) : Bool := decide (p.toNat < s.cfg.pinCount)

/-- The `rw` operand of BIND_CTRL may also be UNUSED (R121, R122). -/
def State.rwPinOK (s : State) (p : Byte) : Bool := p == unused || s.pinOK p

/-- `wired(RW)` is `pinRW != UNUSED` (R38). -/
def State.wiredRW (s : State) : Bool := s.pinRW != unused

/-- The value of `dataCount` (R41). -/
def DataCount.count : DataCount → Nat
  | .zero => 0
  | .four => 4
  | .eight => 8

/-- The indices of D0..D3, ascending (R145). -/
def lowLines : List (Fin 8) := [0, 1, 2, 3]

/-- The indices of D0..D7, ascending (R150). -/
def allLines : List (Fin 8) := [0, 1, 2, 3, 4, 5, 6, 7]

/-- The indices of the bound data lines D0..D(dataCount-1), ascending (R127). -/
def State.dataLines (s : State) : List (Fin 8) := allLines.take s.dataCount.count

/-- Role resolution (R59). -/
def State.resolve (s : State) : Role → Port × Byte
  | .rs => (s.cfg.portRS, s.pinRS)
  | .rw => (s.cfg.portRW, s.pinRW)
  | .en => (s.cfg.portEN, s.pinEN)
  | .d i => (s.cfg.portData, s.data[i])

/-- The wired roles in the order of R127: RS, RW if wired, EN, D0..D(dataCount-1). -/
def State.activeRoles (s : State) : List Role :=
  [.rs] ++ (if s.wiredRW then [.rw] else []) ++ [.en] ++ s.dataLines.map .d

/-- `aliasFree()`: the wired roles resolve to pairwise distinct (port, pin) pairs (R128). -/
def State.aliasFree (s : State) : Bool := decide (s.activeRoles.map s.resolve).Nodup

/-- A list with repeated members removed, each kept at its first occurrence (R126). -/
def firstOccurrences : List Port → List Port
  | [] => []
  | p :: ps => p :: (firstOccurrences ps).filter (· != p)

/-- `clockPorts()` (R126): the data port, the RW port if RW is wired, the EN and RS ports, first occurrences kept. -/
def State.clockPorts (s : State) : List Port :=
  firstOccurrences ([s.cfg.portData] ++ (if s.wiredRW then [s.cfg.portRW] else []) ++ [s.cfg.portEN, s.cfg.portRS])

/-- The high nibble `v >> 4` (R152). -/
def highNibble (v : Byte) : Byte := v >>> 4

/-- MAX_ROW_SLOTS (R10). -/
def maxRowSlots : Nat := 4

/-- The row SET_CURSOR uses: `min(row, numRows - 1, MAX_ROW_SLOTS - 1)` (R220). -/
def State.clampRow (s : State) (row : Byte) : Nat := min row.toNat (min (s.numRows - 1) (maxRowSlots - 1))

/-- Entry `r` of the row-offset table (R37); `clampRow` gives only 0 to 3. -/
def State.rowBase (s : State) (r : Nat) : Byte := s.rowOffset[r]?.getD 0

/-- `col + rowOffset[r]`, computed in 9 bits (R220). -/
def State.cursorSum (s : State) (col row : Byte) : BitVec 9 :=
  col.setWidth 9 + (s.rowBase (s.clampRow row)).setWidth 9

/-- The row-offset table BEGIN writes, each entry mod 256 (R172). -/
def rowTable (cols : Byte) : Vector Byte 4 := #v[0x00, 0x40, cols, 0x40 + cols]

/-- CREATE_CHAR's slot, masked to bits 2:0 (R225, R226). -/
def maskSlot (slot : Byte) : Byte := slot &&& 0x07

/-- The first refusal reason whose condition holds, in the order of the list (R254). -/
def firstReason : List (Bool × Reason) → Option Reason
  | [] => none
  | (holds, r) :: rest => if holds then some r else firstReason rest

end Sys2Proof.Machine
end

