-- ==== Sys2Proof/Machine/Ops.lean ====
section
/-! DEFINITION. The named operations every request is made of: register writes (R35), event emission and what it does to
the bus lines (R14, R53), refusing a request (R251), running a body, advancing a running request (R45), transfers (R142). -/

namespace Sys2Proof.Machine

/-- The level of the line of a role (R52). -/
def Lines.get (ls : Lines) : Role → Level
  | .rs => ls.rs
  | .rw => ls.rw
  | .en => ls.en
  | .d i => ls.d[i]

/-- The lines with the line of one role at another level. -/
def Lines.put (ls : Lines) (l : Level) : Role → Lines
  | .rs => { ls with rs := l }
  | .rw => { ls with rw := l }
  | .en => { ls with en := l }
  | .d i => { ls with d := ls.d.set i l }

/-- `ConfigureOutput` of a line: UNDRIVEN becomes UNKNOWN, any other level stays (R53). -/
def Level.configured : Level → Level
  | .undriven => .unknown
  | l => l

/-- The lines after the line of role `r` is configured as an output (R53). -/
def Lines.configure (ls : Lines) (r : Role) : Lines := ls.put (ls.get r).configured r

/-- What one event of this engine does to its lines (R53). A `ConfigureOutput` names a (port, pin) pair, so it configures
the wired role that resolves to the pair; BEGIN runs only when there is one such role (R128). -/
def State.lineStep (s : State) (ls : Lines) : Event → Lines
  | .enableClock _ => ls
  | .configureOutput p q => s.activeRoles.foldl (fun acc r => if s.resolve r = (p, q) then acc.configure r else acc) ls
  | .setLevel r _ _ b => ls.put (.driven b) r
  | .delayMs _ => ls

/-- The lines after a list of events. -/
def State.replay (s : State) (ls : Lines) (es : List Event) : Lines := es.foldl s.lineStep ls

/-- `emit e`: the event joins the trace (R14) and the backend performs it at once (R58, R83). -/
def State.emit (s : State) (e : Event) : State := { s with trace := s.trace ++ [e], lines := s.lineStep s.lines e }

/-- The value of a configuration byte. -/
def State.conf (s : State) : ConfReg → Byte
  | .function => s.function
  | .control => s.control
  | .entryMode => s.entryMode

/-- The state with a configuration byte at another value. -/
def State.putConf (s : State) (v : Byte) : ConfReg → State
  | .function => { s with function := v }
  | .control => { s with control := v }
  | .entryMode => { s with entryMode := v }

/-- A register write. The configuration bytes are only masked in place (R35). -/
def State.write (s : State) : RegWrite → State
  | .set r m => s.putConf (setBits (s.conf r) m) r
  | .clr r m => s.putConf (clrBits (s.conf r) m) r
  | .numRows n => { s with numRows := n }
  | .rowOffset t => { s with rowOffset := t }
  | .pins rw en rs => { s with pinRW := rw, pinEN := en, pinRS := rs }
  | .ctrlBound => { s with ctrlBound := true }
  | .data v => { s with data := v }
  | .dataCount c => { s with dataCount := c }
  | .lifecycle l => { s with lifecycle := l }
  | .result r => { s with result := r }

/-- A list of register writes, in order. -/
def State.writeAll (s : State) (ws : List RegWrite) : State := ws.foldl State.write s

/-- One element of an expansion. -/
def State.micro (s : State) : Micro → State
  | .write w => s.write w
  | .emit e => s.emit e

/-- A list of expansion elements, in order (R83). -/
def State.run (s : State) (ms : List Micro) : State := ms.foldl State.micro s

/-- Register writes as expansion elements. -/
def writes (ws : List RegWrite) : List Micro := ws.map .write

/-- Events as expansion elements. -/
def emits (es : List Event) : List Micro := es.map .emit

/-- `return v`: the request's result (R48); a request that returns no value sets `result <- none`. -/
def ret (v : Option Byte) : List Micro := [.write (.result v)]

/-- The event of an expansion element. -/
def Micro.event? : Micro → Option Event
  | .write _ => none
  | .emit e => some e

/-- The events of an expansion, in order. -/
def eventsOf (ms : List Micro) : List Event := ms.filterMap Micro.event?

/-- Refusing a request (R251): the sticky mark is set, the reason and the request bytes are recorded (R47, R253), and
nothing else changes: no event, no other register, `result` and `seq` as they were. It is the block's only abnormal outcome
(R257), and there is nothing to return from: the next request is accepted as usual (R258). -/
def State.refuse (s : State) (r : Reason) (bytes : List Byte) : State :=
  { s with refused := true, lastRefusal := some (r, bytes) }

/-- A request run to completion (R6, R79): `Busy` while another runs (R258); else its checks (R252), the first that holds
refusing it; else its body. -/
def perform (i : Instr) (check : Option Reason) (body : List Micro) (s : State) : Host.Outcome State Fault Refusal :=
  match s.seq with
  | .busy _ _ _ => .next (s.refuse .busy (encode i))
  | .idle =>
    match check with
    | some r => .next (s.refuse r (encode i))
    | none => .next (s.run body)

/-- A request accepted and not yet run (R258): `seq <- BUSY(request, 0)`, its expansion fixed (R45); or refused. -/
def accept (i : Instr) (check : Option Reason) (body : List Micro) (s : State) : State :=
  match s.seq with
  | .busy _ _ _ => s.refuse .busy (encode i)
  | .idle =>
    match check with
    | some r => s.refuse r (encode i)
    | none => { s with seq := .busy i 0 body }

/-- The running request goes on to its next event (R45): the writes before the event, then the event, and the position
grows by 1; when no event is left, the remaining writes, then `seq <- IDLE` (log entry 3). -/
def advanceWith (req : Instr) (pos : Nat) : List Micro → State → State
  | [], s => { s with seq := .idle }
  | .write w :: ms, s => advanceWith req pos ms (s.write w)
  | .emit e :: ms, s => { s.emit e with seq := .busy req (pos + 1) ms }

/-- The block goes on by itself: an idle block holds its state (R276), a running request advances (R45). -/
def State.advance (s : State) : State :=
  match s.seq with
  | .idle => s
  | .busy req pos rest => advanceWith req pos rest s

/-- A transfer (R142): the levels of RS, of RW (`none` when RW is unwired) and of the bound data lines, D0 first. -/
structure Transfer where
  rs : Level
  rw : Option Level
  bits : List Level
deriving DecidableEq, Repr

/-- The bus snapshot of R142. -/
def State.snapshot (s : State) (ls : Lines) : Transfer where
  rs := ls.rs
  rw := if s.wiredRW then some ls.rw else none
  bits := s.dataLines.map fun i => ls.d[i]

/-- True of the event at which a transfer is taken, `SetLevel(EN, 1)` (R142). -/
def Event.raisesEN : Event → Bool
  | .setLevel .en _ _ true => true
  | _ => false

/-- The transfers of a list of events, from the given levels (R142). -/
def State.transfersFrom (s : State) : Lines → List Event → List Transfer
  | _, [] => []
  | ls, e :: es =>
    (if e.raisesEN then [s.snapshot (s.lineStep ls e)] else []) ++ s.transfersFrom (s.lineStep ls e) es

/-- `transfers(trace)`: the transfers of the whole trace, from construction (R142, R60). -/
def State.transfers (s : State) : List Transfer := s.transfersFrom Lines.reset s.trace

/-- The number a list of levels stands for, the first one bit 0; `none` if a level is not driven (R142, R53). -/
def levelsNumber : List Level → Option Nat
  | [] => some 0
  | .driven b :: ls => (levelsNumber ls).map fun n => b.toNat + 2 * n
  | _ :: _ => none

/-- The `bits` of a transfer as a number (R142). -/
def Transfer.number (t : Transfer) : Option Nat := levelsNumber t.bits

/-- The least duration of an event in ms (R58, R300). -/
def Event.minMs : Event → Nat
  | .delayMs n => n
  | _ => 0

/-- The sum of the `DelayMs` arguments of a list of events (R300). -/
def minDuration (es : List Event) : Nat := (es.map Event.minMs).sum

end Sys2Proof.Machine
end

