-- ==== Sys2Proof/Machine/Transmission.lean ====
section
/-! DEFINITION. The enable pulse and the transmission requests PULSE_ENABLE, WRITE4BITS, WRITE8BITS, SEND, COMMAND and
WRITE (41_protocol_engine.md R140 to R157). The sub-procedures give the events a body emits; other requests call them inline
and do not repeat the checks (R14). -/

namespace Sys2Proof.Machine

/-- `SetLevel(role, level)` with the resolved pair (R14, R59). -/
def State.setLevel (s : State) (r : Role) (level : Bool) : Event := .setLevel r (s.resolve r).1 (s.resolve r).2 level

/-- `pulseEnable()` (R141). -/
def pulseEnable (s : State) : List Event :=
  [s.setLevel .en false, .delayMs s.cfg.tEnPre,
   s.setLevel .en true, .delayMs s.cfg.tEnHigh,
   s.setLevel .en false, .delayMs s.cfg.tEnSettle]

/-- Driving data lines to the bits of `v`, line Di to bit i, in the order of the list (R73, R145, R150). -/
def driveLines (s : State) (ls : List (Fin 8)) (v : Byte) : List Event := ls.map fun i => s.setLevel (.d i) (v.getLsbD i)

/-- `write4bits(v)` (R145): D0..D3 from `v[3:0]`, then a pulse. -/
def write4bits (s : State) (v : Byte) : List Event := driveLines s lowLines v ++ pulseEnable s

/-- `write8bits(v)` (R150): D0..D7 from `v`, then a pulse. -/
def write8bits (s : State) (v : Byte) : List Event := driveLines s allLines v ++ pulseEnable s

/-- `send(v, rs)` (R152): RS, then RW low if wired, then one byte or two nibbles, high first. -/
def send (s : State) (v : Byte) (rs : Bool) : List Event :=
  [s.setLevel .rs rs] ++ (if s.wiredRW then [s.setLevel .rw false] else []) ++
    (if s.dl then write8bits s v else write4bits s (highNibble v) ++ write4bits s v)

/-- `command(v)` (R155). -/
def command (s : State) (v : Byte) : List Event := send s v false

/-- `write(v)`: its events, and its result, always 1 (R156, R157). -/
def write (s : State) (v : Byte) : List Event × Byte := (send s v true, 1)

/-- The bus-request check (R140). -/
def checkBus (s : State) : Option Reason := firstReason [(s.notBegun, .notBegun)]

/-- The checks of PULSE_ENABLE (R141, R252). -/
def checkPulseEnable (s : State) : Option Reason := checkBus s

/-- The body of PULSE_ENABLE (R141). -/
def bodyPulseEnable (s : State) : List Micro := emits (pulseEnable s) ++ ret none

/-- PULSE_ENABLE (R141). -/
def execPulseEnable (s : State) : Host.Outcome State Fault Refusal :=
  perform .pulseEnable (checkPulseEnable s) (bodyPulseEnable s) s

/-- The checks of WRITE4BITS (R145, R252). -/
def checkWrite4bits (_v : Byte) (s : State) : Option Reason := checkBus s

/-- The body of WRITE4BITS (R145). -/
def bodyWrite4bits (v : Byte) (s : State) : List Micro := emits (write4bits s v) ++ ret none

/-- WRITE4BITS (R145); in 8-bit mode D4..D7 keep their levels (R149). -/
def execWrite4bits (v : Byte) (s : State) : Host.Outcome State Fault Refusal :=
  perform (.write4bits v) (checkWrite4bits v s) (bodyWrite4bits v s) s

/-- The checks of WRITE8BITS: NotBegun, then WidthMismatch unless `dataCount = 8` (R150, R151, R252). -/
def checkWrite8bits (_v : Byte) (s : State) : Option Reason :=
  firstReason [(s.notBegun, .notBegun), (s.dataCount != .eight, .widthMismatch)]

/-- The body of WRITE8BITS (R150). -/
def bodyWrite8bits (v : Byte) (s : State) : List Micro := emits (write8bits s v) ++ ret none

/-- WRITE8BITS (R150). -/
def execWrite8bits (v : Byte) (s : State) : Host.Outcome State Fault Refusal :=
  perform (.write8bits v) (checkWrite8bits v s) (bodyWrite8bits v s) s

/-- The checks of SEND: NotBegun, then BadOperand unless `mode` is 0 or 1 (R152, R252). -/
def checkSend (_v mode : Byte) (s : State) : Option Reason :=
  firstReason [(s.notBegun, .notBegun), (!(mode == 0 || mode == 1), .badOperand)]

/-- The body of SEND: RS is 0 for mode 0 (command) and 1 for mode 1 (data) (R152, R15). -/
def bodySend (v mode : Byte) (s : State) : List Micro := emits (send s v (mode == 1)) ++ ret none

/-- SEND (R152). -/
def execSend (v mode : Byte) (s : State) : Host.Outcome State Fault Refusal :=
  perform (.send v mode) (checkSend v mode s) (bodySend v mode s) s

/-- The checks of COMMAND (R155, R252). -/
def checkCommand (_v : Byte) (s : State) : Option Reason := checkBus s

/-- The body of COMMAND: no register follows the byte (R155, R293). -/
def bodyCommand (v : Byte) (s : State) : List Micro := emits (command s v) ++ ret none

/-- COMMAND (R155). -/
def execCommand (v : Byte) (s : State) : Host.Outcome State Fault Refusal :=
  perform (.command v) (checkCommand v s) (bodyCommand v s) s

/-- The checks of WRITE (R156, R252). -/
def checkWrite (_v : Byte) (s : State) : Option Reason := checkBus s

/-- The body of WRITE (R156): its result is the sub-procedure's. -/
def bodyWrite (v : Byte) (s : State) : List Micro := emits (write s v).1 ++ ret (some (write s v).2)

/-- WRITE (R156). -/
def execWrite (v : Byte) (s : State) : Host.Outcome State Fault Refusal :=
  perform (.write v) (checkWrite v s) (bodyWrite v s) s

end Sys2Proof.Machine
end

