-- ==== Sys2Proof/Machine/DisplayState.lean ====
section
/-! DEFINITION. The display-state requests (43_display_state.md R200 to R228). -/

namespace Sys2Proof.Machine

/-- A feature toggle (R214): the bits are set or cleared in place, then the owning command is issued once with the whole
register, whether or not a bit changed. -/
def reissue (ws : List RegWrite) (cmd : State → Byte) (s : State) : List Micro :=
  writes ws ++ emits (command (s.writeAll ws) (cmd (s.writeAll ws))) ++ ret none

/-- The checks of DISPLAY_ON (R200, R252). -/
def checkDisplayOn (s : State) : Option Reason := checkBus s

/-- The body of DISPLAY_ON (R201). -/
def bodyDisplayOn (s : State) : List Micro := reissue [.set .control maskD] (fun t => cmdControl t.control) s

/-- DISPLAY_ON (R201). -/
def execDisplayOn (s : State) : Host.Outcome State Fault Refusal :=
  perform .displayOn (checkDisplayOn s) (bodyDisplayOn s) s

/-- The checks of DISPLAY_OFF (R200, R252). -/
def checkDisplayOff (s : State) : Option Reason := checkBus s

/-- The body of DISPLAY_OFF (R202). -/
def bodyDisplayOff (s : State) : List Micro := reissue [.clr .control maskD] (fun t => cmdControl t.control) s

/-- DISPLAY_OFF (R202). -/
def execDisplayOff (s : State) : Host.Outcome State Fault Refusal :=
  perform .displayOff (checkDisplayOff s) (bodyDisplayOff s) s

/-- The checks of CURSOR_ON (R200, R252). -/
def checkCursorOn (s : State) : Option Reason := checkBus s

/-- The body of CURSOR_ON (R203). -/
def bodyCursorOn (s : State) : List Micro := reissue [.set .control (maskC ||| maskB)] (fun t => cmdControl t.control) s

/-- CURSOR_ON (R203). -/
def execCursorOn (s : State) : Host.Outcome State Fault Refusal :=
  perform .cursorOn (checkCursorOn s) (bodyCursorOn s) s

/-- The checks of CURSOR_OFF (R200, R252). -/
def checkCursorOff (s : State) : Option Reason := checkBus s

/-- The body of CURSOR_OFF (R204). -/
def bodyCursorOff (s : State) : List Micro := reissue [.clr .control (maskC ||| maskB)] (fun t => cmdControl t.control) s

/-- CURSOR_OFF (R204). -/
def execCursorOff (s : State) : Host.Outcome State Fault Refusal :=
  perform .cursorOff (checkCursorOff s) (bodyCursorOff s) s

/-- The checks of AUTOSCROLL_ON (R200, R252). -/
def checkAutoscrollOn (s : State) : Option Reason := checkBus s

/-- The body of AUTOSCROLL_ON (R206). -/
def bodyAutoscrollOn (s : State) : List Micro := reissue [.set .entryMode maskS] (fun t => cmdEntryMode t.entryMode) s

/-- AUTOSCROLL_ON (R206). -/
def execAutoscrollOn (s : State) : Host.Outcome State Fault Refusal :=
  perform .autoscrollOn (checkAutoscrollOn s) (bodyAutoscrollOn s) s

/-- The checks of AUTOSCROLL_OFF (R200, R252). -/
def checkAutoscrollOff (s : State) : Option Reason := checkBus s

/-- The body of AUTOSCROLL_OFF (R207). -/
def bodyAutoscrollOff (s : State) : List Micro := reissue [.clr .entryMode maskS] (fun t => cmdEntryMode t.entryMode) s

/-- AUTOSCROLL_OFF (R207). -/
def execAutoscrollOff (s : State) : Host.Outcome State Fault Refusal :=
  perform .autoscrollOff (checkAutoscrollOff s) (bodyAutoscrollOff s) s

/-- The checks of LEFT_TO_RIGHT (R200, R252). -/
def checkLeftToRight (s : State) : Option Reason := checkBus s

/-- The body of LEFT_TO_RIGHT (R208). -/
def bodyLeftToRight (s : State) : List Micro := reissue [.set .entryMode maskID] (fun t => cmdEntryMode t.entryMode) s

/-- LEFT_TO_RIGHT (R208). -/
def execLeftToRight (s : State) : Host.Outcome State Fault Refusal :=
  perform .leftToRight (checkLeftToRight s) (bodyLeftToRight s) s

/-- The checks of RIGHT_TO_LEFT (R200, R252). -/
def checkRightToLeft (s : State) : Option Reason := checkBus s

/-- The body of RIGHT_TO_LEFT (R209). -/
def bodyRightToLeft (s : State) : List Micro := reissue [.clr .entryMode maskID] (fun t => cmdEntryMode t.entryMode) s

/-- RIGHT_TO_LEFT (R209). -/
def execRightToLeft (s : State) : Host.Outcome State Fault Refusal :=
  perform .rightToLeft (checkRightToLeft s) (bodyRightToLeft s) s

/-- The checks of SCROLL_LEFT (R200, R252). -/
def checkScrollLeft (s : State) : Option Reason := checkBus s

/-- The body of SCROLL_LEFT (R210); no register is written but `result`. -/
def bodyScrollLeft (s : State) : List Micro := emits (command s (cmdShift true false)) ++ ret none

/-- SCROLL_LEFT (R210). -/
def execScrollLeft (s : State) : Host.Outcome State Fault Refusal :=
  perform .scrollLeft (checkScrollLeft s) (bodyScrollLeft s) s

/-- The checks of SCROLL_RIGHT (R200, R252). -/
def checkScrollRight (s : State) : Option Reason := checkBus s

/-- The body of SCROLL_RIGHT (R211); no register is written but `result`. -/
def bodyScrollRight (s : State) : List Micro := emits (command s (cmdShift true true)) ++ ret none

/-- SCROLL_RIGHT (R211). -/
def execScrollRight (s : State) : Host.Outcome State Fault Refusal :=
  perform .scrollRight (checkScrollRight s) (bodyScrollRight s) s

/-- The checks of CLEAR (R200, R252). -/
def checkClear (s : State) : Option Reason := checkBus s

/-- The body of CLEAR (R212); no register is written but `result`. -/
def bodyClear (s : State) : List Micro := emits (command s cmdClear ++ [.delayMs s.cfg.tClear]) ++ ret none

/-- CLEAR (R212). -/
def execClear (s : State) : Host.Outcome State Fault Refusal :=
  perform .clear (checkClear s) (bodyClear s) s

/-- The checks of HOME (R200, R252). -/
def checkHome (s : State) : Option Reason := checkBus s

/-- The body of HOME (R213); no register is written but `result`. -/
def bodyHome (s : State) : List Micro := emits (command s cmdHome ++ [.delayMs s.cfg.tHome]) ++ ret none

/-- HOME (R213). -/
def execHome (s : State) : Host.Outcome State Fault Refusal :=
  perform .home (checkHome s) (bodyHome s) s

/-- The checks of SET_CURSOR: no operand is refused (R200, R220, R252). -/
def checkSetCursor (_col _row : Byte) (s : State) : Option Reason := checkBus s

/-- The body of SET_CURSOR (R220 to R222): the row is clamped, the column is not. -/
def bodySetCursor (col row : Byte) (s : State) : List Micro :=
  emits (command s (cmdSetDdram (s.cursorSum col row))) ++ ret none

/-- SET_CURSOR (R220). -/
def execSetCursor (col row : Byte) (s : State) : Host.Outcome State Fault Refusal :=
  perform (.setCursor col row) (checkSetCursor col row s) (bodySetCursor col row s) s

/-- The checks of CREATE_CHAR: no operand is refused (R200, R225, R252). -/
def checkCreateChar (_slot _p0 _p1 _p2 _p3 _p4 _p5 _p6 _p7 : Byte) (s : State) : Option Reason := checkBus s

/-- The body of CREATE_CHAR (R225): the CGRAM address of the masked slot, then the eight pattern bytes as data; the inner
results are discarded. -/
def bodyCreateChar (slot p0 p1 p2 p3 p4 p5 p6 p7 : Byte) (s : State) : List Micro :=
  emits (command s (cmdSetCgram (maskSlot slot <<< 3)) ++
    [p0, p1, p2, p3, p4, p5, p6, p7].flatMap fun p => (write s p).1) ++ ret none

/-- CREATE_CHAR (R225). -/
def execCreateChar (slot p0 p1 p2 p3 p4 p5 p6 p7 : Byte) (s : State) : Host.Outcome State Fault Refusal :=
  perform (.createChar slot p0 p1 p2 p3 p4 p5 p6 p7) (checkCreateChar slot p0 p1 p2 p3 p4 p5 p6 p7 s)
    (bodyCreateChar slot p0 p1 p2 p3 p4 p5 p6 p7 s) s

end Sys2Proof.Machine
end

