-- ==== Sys2Proof/Machine/Init.lean ====
section
/-! DEFINITION. BEGIN, the nine-step initialization (42_initialization.md R170 to R186). -/

namespace Sys2Proof.Machine

/-- BadRows: `rows` is not in 1..4 (R170, R186). -/
def badRows (rows : Byte) : Bool := !(decide (1 ≤ rows.toNat) && decide (rows.toNat ≤ 4))

/-- The checks of BEGIN, in order (R170, R252). -/
def checkBegin (_cols rows _font : Byte) (s : State) : Option Reason :=
  firstReason [(badRows rows, .badRows), (s.notBound, .notBound), (!s.aliasFree, .aliasedPins)]

/-- Step S1, geometry and function bits; N and F are only ever set (R172, R184). -/
def beginWritesS1 (cols rows font : Byte) : List RegWrite :=
  [.lifecycle .initializing, .numRows rows.toNat, .rowOffset (rowTable cols)] ++
    (if 1 < rows.toNat then [.set .function maskN] else []) ++
    (if font ≠ 0 ∧ rows = 1 then [.set .function maskF] else [])

/-- Step S2, clocks then outputs (R173, R126, R127). -/
def beginS2 (s : State) : List Event :=
  s.clockPorts.map .enableClock ++ s.activeRoles.map fun r => .configureOutput (s.resolve r).1 (s.resolve r).2

/-- Step S3, the power-on settle (R174). -/
def beginS3 (s : State) : List Event := [.delayMs s.cfg.tPowerOn]

/-- Step S4, the command-ready state: RS, EN, then RW if wired (R175). -/
def beginS4 (s : State) : List Event :=
  [s.setLevel .rs false, s.setLevel .en false] ++ (if s.wiredRW then [s.setLevel .rw false] else [])

/-- Step S5, the bit-mode handshake: bare nibbles in 4-bit mode (R176), function-set commands in 8-bit mode (R177). -/
def beginS5 (s : State) : List Event :=
  if s.dl then
    command s (cmdFunction s.function) ++ [.delayMs s.cfg.tInit1] ++
    command s (cmdFunction s.function) ++ [.delayMs s.cfg.tInit2] ++
    command s (cmdFunction s.function) ++ [.delayMs s.cfg.tInit3]
  else
    write4bits s nibbleReset ++ [.delayMs s.cfg.tInit1] ++
    write4bits s nibbleReset ++ [.delayMs s.cfg.tInit2] ++
    write4bits s nibbleReset ++ [.delayMs s.cfg.tInit3] ++
    write4bits s nibbleFourBit

/-- Step S6, the final function set (R178). -/
def beginS6 (s : State) : List Event := command s (cmdFunction s.function)

/-- Step S7's register writes: D = 1, C = 0, B = 0 (R179). -/
def beginWritesS7 : List RegWrite := [.set .control maskD, .clr .control maskC, .clr .control maskB]

/-- Step S7, display control (R179). -/
def beginS7 (s : State) : List Event := command s (cmdControl s.control)

/-- Step S8, clear and wait (R180). -/
def beginS8 (s : State) : List Event := command s cmdClear ++ [.delayMs s.cfg.tClear]

/-- Step S9's register writes: ID = 1, S = 0 (R181). -/
def beginWritesS9 : List RegWrite := [.set .entryMode maskID, .clr .entryMode maskS]

/-- Step S9, entry mode (R181). -/
def beginS9 (s : State) : List Event := command s (cmdEntryMode s.entryMode)

/-- The phases of BEGIN with the expansion of each (R170, R171). Each step's events are those of the registers as the
writes before it left them; no event changes a register. -/
def beginPhases (cols rows font : Byte) (s : State) : List (InitPhase × List Micro) :=
  let s1 := s.writeAll (beginWritesS1 cols rows font)
  let s7 := s1.writeAll beginWritesS7
  let s9 := s7.writeAll beginWritesS9
  [(.S1, writes (beginWritesS1 cols rows font)),
   (.S2, emits (beginS2 s1)),
   (.S3, emits (beginS3 s1)),
   (.S4, emits (beginS4 s1)),
   (.S5, emits (beginS5 s1)),
   (.S6, emits (beginS6 s1)),
   (.S7, writes beginWritesS7 ++ emits (beginS7 s7)),
   (.S8, emits (beginS8 s7)),
   (.S9, writes beginWritesS9 ++ emits (beginS9 s9) ++ writes [.lifecycle .ready] ++ ret none)]

/-- The body of BEGIN (R170): its phases in order, each entered once (R182). -/
def bodyBegin (cols rows font : Byte) (s : State) : List Micro :=
  ((beginPhases cols rows font s).map Prod.snd).flatten

/-- BEGIN (R170). -/
def execBegin (cols rows font : Byte) (s : State) : Host.Outcome State Fault Refusal :=
  perform (.begin cols rows font) (checkBegin cols rows font s) (bodyBegin cols rows font s) s

/-- The phase whose events hold position `pos` (R171). DESIGN CHOICE (log entry 26): S1 has no events, so it holds no
position; position 0, also before S1's writes are made, is in S2, and past the last event the phase is S9. -/
def phaseAt : List (InitPhase × List Micro) → Nat → InitPhase
  | [], _ => .S9
  | (p, ms) :: rest, pos =>
    if pos < (eventsOf ms).length then p else phaseAt rest (pos - (eventsOf ms).length)

/-- The phase a running BEGIN is in: the one its sequencer position falls in (R45, R171). The counts of events depend only
on the pin map, the ports and DL, which no BEGIN changes. It never answers S1 (log entry 26). -/
def State.initPhase (s : State) : Option InitPhase :=
  match s.seq with
  | .busy (.begin cols rows font) pos _ => some (phaseAt (beginPhases cols rows font s) pos)
  | _ => none

end Sys2Proof.Machine
end

