-- ==== Sys2Proof/Machine/PinMap.lean ====
section
/-! DEFINITION. The pin-map requests BIND_CTRL, BIND_DATA4 and BIND_DATA8 (40_pin_map.md R122 to R125). -/

namespace Sys2Proof.Machine

/-- The checks of BIND_CTRL (R122, R252). -/
def checkBindCtrl (rw en rs : Byte) (s : State) : Option Reason :=
  firstReason [
    (s.rebindAfterBegin, .rebindAfterBegin),
    (!(s.pinOK en && s.pinOK rs && s.rwPinOK rw), .badPin)]

/-- The body of BIND_CTRL (R122). -/
def bodyBindCtrl (rw en rs : Byte) (_s : State) : List Micro :=
  writes [.pins rw en rs, .ctrlBound] ++ ret none

/-- BIND_CTRL (R122). -/
def execBindCtrl (rw en rs : Byte) (s : State) : Host.Outcome State Fault Refusal :=
  perform (.bindCtrl rw en rs) (checkBindCtrl rw en rs s) (bodyBindCtrl rw en rs s) s

/-- The checks of BIND_DATA4 (R123, R252). -/
def checkBindData4 (d0 d1 d2 d3 : Byte) (s : State) : Option Reason :=
  firstReason [
    (s.rebindAfterBegin, .rebindAfterBegin),
    (!([d0, d1, d2, d3].all s.pinOK), .badPin)]

/-- The body of BIND_DATA4 (R123): entries 4 to 7 become UNUSED, and DL is cleared. -/
def bodyBindData4 (d0 d1 d2 d3 : Byte) (_s : State) : List Micro :=
  writes [.data #v[d0, d1, d2, d3, unused, unused, unused, unused], .dataCount .four, .clr .function maskDL] ++ ret none

/-- BIND_DATA4 (R123). -/
def execBindData4 (d0 d1 d2 d3 : Byte) (s : State) : Host.Outcome State Fault Refusal :=
  perform (.bindData4 d0 d1 d2 d3) (checkBindData4 d0 d1 d2 d3 s) (bodyBindData4 d0 d1 d2 d3 s) s

/-- The checks of BIND_DATA8 (R124, R252). -/
def checkBindData8 (d0 d1 d2 d3 d4 d5 d6 d7 : Byte) (s : State) : Option Reason :=
  firstReason [
    (s.rebindAfterBegin, .rebindAfterBegin),
    (!([d0, d1, d2, d3, d4, d5, d6, d7].all s.pinOK), .badPin)]

/-- The body of BIND_DATA8 (R124): DL is set. -/
def bodyBindData8 (d0 d1 d2 d3 d4 d5 d6 d7 : Byte) (_s : State) : List Micro :=
  writes [.data #v[d0, d1, d2, d3, d4, d5, d6, d7], .dataCount .eight, .set .function maskDL] ++ ret none

/-- BIND_DATA8 (R124). -/
def execBindData8 (d0 d1 d2 d3 d4 d5 d6 d7 : Byte) (s : State) : Host.Outcome State Fault Refusal :=
  perform (.bindData8 d0 d1 d2 d3 d4 d5 d6 d7) (checkBindData8 d0 d1 d2 d3 d4 d5 d6 d7 s)
    (bodyBindData8 d0 d1 d2 d3 d4 d5 d6 d7 s) s

end Sys2Proof.Machine
end

