-- ==== Sys2Proof/Machine/Stream.lean ====
section
/-! DEFINITION. The character stream writer PRINT (44_stream_writer.md R240 to R244). -/

namespace Sys2Proof.Machine

/-- The loop of PRINT (R240): it stops at a 0x00 byte (R243), and at the first WRITE whose result is not 1 (R242, kept as
the contract although WRITE always returns 1); it gives the events and the count of bytes written. -/
def printLoop (s : State) : List Byte → Nat → List Event × Nat
  | [], count => ([], count)
  | t :: ts, count =>
    if t = 0x00 then ([], count)
    else if (write s t).2 = 1 then
      ((write s t).1 ++ (printLoop s ts (count + 1)).1, (printLoop s ts (count + 1)).2)
    else ((write s t).1, count)

/-- The checks of PRINT, also when `n = 0` (R240, R252). -/
def checkPrint (_n : Byte) (_text : List Byte) (s : State) : Option Reason := checkBus s

/-- The body of PRINT (R240): the bytes t0..t(n-1); an empty text returns 0 at once (R241). -/
def bodyPrint (n : Byte) (text : List Byte) (s : State) : List Micro :=
  if n = 0 then ret (some 0)
  else emits (printLoop s (text.take n.toNat) 0).1 ++ ret (some (BitVec.ofNat 8 (printLoop s (text.take n.toNat) 0).2))

/-- PRINT (R240). -/
def execPrint (n : Byte) (text : List Byte) (s : State) : Host.Outcome State Fault Refusal :=
  perform (.print n text) (checkPrint n text s) (bodyPrint n text s) s

end Sys2Proof.Machine
end

