-- ==== Sys2Proof/Machine/Dispatch.lean ====
section
/-! DEFINITION. The dispatch of a request to its meaning (R93): one arm per constructor. -/

namespace Sys2Proof.Machine

def exec (i : Instr) (s : State) : Host.Outcome State Fault Refusal :=
  match i with
  | .bindCtrl rw en rs => Sys2Proof.Machine.execBindCtrl rw en rs s
  | .bindData4 d0 d1 d2 d3 => Sys2Proof.Machine.execBindData4 d0 d1 d2 d3 s
  | .bindData8 d0 d1 d2 d3 d4 d5 d6 d7 => Sys2Proof.Machine.execBindData8 d0 d1 d2 d3 d4 d5 d6 d7 s
  | .begin cols rows font => Sys2Proof.Machine.execBegin cols rows font s
  | .pulseEnable => Sys2Proof.Machine.execPulseEnable s
  | .write4bits v => Sys2Proof.Machine.execWrite4bits v s
  | .write8bits v => Sys2Proof.Machine.execWrite8bits v s
  | .send v mode => Sys2Proof.Machine.execSend v mode s
  | .command v => Sys2Proof.Machine.execCommand v s
  | .write v => Sys2Proof.Machine.execWrite v s
  | .displayOn => Sys2Proof.Machine.execDisplayOn s
  | .displayOff => Sys2Proof.Machine.execDisplayOff s
  | .cursorOn => Sys2Proof.Machine.execCursorOn s
  | .cursorOff => Sys2Proof.Machine.execCursorOff s
  | .autoscrollOn => Sys2Proof.Machine.execAutoscrollOn s
  | .autoscrollOff => Sys2Proof.Machine.execAutoscrollOff s
  | .leftToRight => Sys2Proof.Machine.execLeftToRight s
  | .rightToLeft => Sys2Proof.Machine.execRightToLeft s
  | .scrollLeft => Sys2Proof.Machine.execScrollLeft s
  | .scrollRight => Sys2Proof.Machine.execScrollRight s
  | .clear => Sys2Proof.Machine.execClear s
  | .home => Sys2Proof.Machine.execHome s
  | .setCursor col row => Sys2Proof.Machine.execSetCursor col row s
  | .createChar slot p0 p1 p2 p3 p4 p5 p6 p7 => Sys2Proof.Machine.execCreateChar slot p0 p1 p2 p3 p4 p5 p6 p7 s
  | .print n text => Sys2Proof.Machine.execPrint n text s

end Sys2Proof.Machine
end

