-- ==== Sys2Proof/Machine/Expansion.lean ====
section
/-! DEFINITION. The checks and the expansion of each request, as functions of the request and of the state at acceptance
(R45, R252). `exec` runs them at once; a request the host does not wait for is advanced along them. -/

namespace Sys2Proof.Machine

/-- The request's own checks (R252): the first reason that holds, in the order of R254. -/
def checkOf (i : Instr) (s : State) : Option Reason :=
  match i with
  | .bindCtrl rw en rs => checkBindCtrl rw en rs s
  | .bindData4 d0 d1 d2 d3 => checkBindData4 d0 d1 d2 d3 s
  | .bindData8 d0 d1 d2 d3 d4 d5 d6 d7 => checkBindData8 d0 d1 d2 d3 d4 d5 d6 d7 s
  | .begin cols rows font => checkBegin cols rows font s
  | .pulseEnable => checkPulseEnable s
  | .write4bits v => checkWrite4bits v s
  | .write8bits v => checkWrite8bits v s
  | .send v mode => checkSend v mode s
  | .command v => checkCommand v s
  | .write v => checkWrite v s
  | .displayOn => checkDisplayOn s
  | .displayOff => checkDisplayOff s
  | .cursorOn => checkCursorOn s
  | .cursorOff => checkCursorOff s
  | .autoscrollOn => checkAutoscrollOn s
  | .autoscrollOff => checkAutoscrollOff s
  | .leftToRight => checkLeftToRight s
  | .rightToLeft => checkRightToLeft s
  | .scrollLeft => checkScrollLeft s
  | .scrollRight => checkScrollRight s
  | .clear => checkClear s
  | .home => checkHome s
  | .setCursor col row => checkSetCursor col row s
  | .createChar slot p0 p1 p2 p3 p4 p5 p6 p7 => checkCreateChar slot p0 p1 p2 p3 p4 p5 p6 p7 s
  | .print n text => checkPrint n text s

/-- The request's expansion, fixed by the request and the state at acceptance (R45). -/
def bodyOf (i : Instr) (s : State) : List Micro :=
  match i with
  | .bindCtrl rw en rs => bodyBindCtrl rw en rs s
  | .bindData4 d0 d1 d2 d3 => bodyBindData4 d0 d1 d2 d3 s
  | .bindData8 d0 d1 d2 d3 d4 d5 d6 d7 => bodyBindData8 d0 d1 d2 d3 d4 d5 d6 d7 s
  | .begin cols rows font => bodyBegin cols rows font s
  | .pulseEnable => bodyPulseEnable s
  | .write4bits v => bodyWrite4bits v s
  | .write8bits v => bodyWrite8bits v s
  | .send v mode => bodySend v mode s
  | .command v => bodyCommand v s
  | .write v => bodyWrite v s
  | .displayOn => bodyDisplayOn s
  | .displayOff => bodyDisplayOff s
  | .cursorOn => bodyCursorOn s
  | .cursorOff => bodyCursorOff s
  | .autoscrollOn => bodyAutoscrollOn s
  | .autoscrollOff => bodyAutoscrollOff s
  | .leftToRight => bodyLeftToRight s
  | .rightToLeft => bodyRightToLeft s
  | .scrollLeft => bodyScrollLeft s
  | .scrollRight => bodyScrollRight s
  | .clear => bodyClear s
  | .home => bodyHome s
  | .setCursor col row => bodySetCursor col row s
  | .createChar slot p0 p1 p2 p3 p4 p5 p6 p7 => bodyCreateChar slot p0 p1 p2 p3 p4 p5 p6 p7 s
  | .print n text => bodyPrint n text s

end Sys2Proof.Machine
end

