-- ==== Sys2Proof/Machine/Port.lean ====
section
/-! DEFINITION. The request port (R90, R95, R258): a presentation is decoded and served, or refused. -/

namespace Sys2Proof.Machine

/-- Bytes beyond a request are the start of the next one (R95): they stay with the host, as the same kind of input
(log entry 6). -/
def leftOver (mk : List Byte → Input) (rest : List Byte) (later : List Input) : List Input :=
  if rest = [] then later else mk rest :: later

/-- A presentation the host waits for: refused `Busy` while a request runs (R258), refused if it decodes to no request
(R94, R95, R100), else run to completion (R6). -/
def serveCall (bytes : List Byte) (later : List Input) (s : State) : Host.Outcome State Fault Refusal :=
  match s.seq with
  | .busy _ _ _ => .next ({ s with inputs := later }.refuse .busy bytes)
  | .idle =>
    match decode bytes with
    | .error r => .next ({ s with inputs := later }.refuse r bytes)
    | .ok (i, rest) => exec i { s with inputs := leftOver .call rest later }

/-- A presentation the host does not wait for: as `serveCall`, but an accepted request is only started (R258). -/
def servePost (bytes : List Byte) (later : List Input) (s : State) : State :=
  match s.seq with
  | .busy _ _ _ => { s with inputs := later }.refuse .busy bytes
  | .idle =>
    match decode bytes with
    | .error r => { s with inputs := later }.refuse r bytes
    | .ok (i, rest) =>
      accept i (checkOf i { s with inputs := leftOver .post rest later })
        (bodyOf i { s with inputs := leftOver .post rest later }) { s with inputs := leftOver .post rest later }

/-- One step of the engine: the host's next input, or, when it does nothing, the running request goes on (R258, R276). -/
def serveInputs (s : State) : Host.Outcome State Fault Refusal :=
  match s.inputs with
  | [] => .next s.advance
  | .wait :: later => .next { s with inputs := later }.advance
  | .post bytes :: later => .next (servePost bytes later s)
  | .call bytes :: later => serveCall bytes later s

/-- The state with a request presented as the host's very next action, at an idle port. -/
def State.present (s : State) (bytes : List Byte) : State := { s with seq := .idle, inputs := .call bytes :: s.inputs }

end Sys2Proof.Machine
end

