-- ==== Sys2Proof/Machine/Step.lean ====
section
/-! DEFINITION. One step of the engine, and the harness function that presents a table word as its next request. -/

namespace Sys2Proof.Machine

/-- One step: see `serveInputs`. -/
def step (s : State) : Host.Outcome State Fault Refusal := serveInputs s

/-- The state with the one request of a table word presented next (log entry 2: the engine fetches nothing from memory,
R86; its host presents requests). -/
def State.withFetchWord (s : State) (nbits w : Nat) : State := s.present (tableRequest nbits w)

end Sys2Proof.Machine
end

