-- ==== Sys2Proof/Machine/Assembler.lean ====
section
/-! DEFINITION. Host-side notations: the assembler syntax of R99 and the pseudo-operation PRINTF of R112 (out of scope of the
engine, R5; they give the request bytes a host presents). -/

namespace Sys2Proof.Machine

/-- The mnemonics of R93 with their opcodes. -/
def mnemonicTable : List (String × Byte) :=
  [("BIND_CTRL", 0x10), ("BIND_DATA4", 0x11), ("BIND_DATA8", 0x12), ("BEGIN", 0x20), ("PULSE_ENABLE", 0x30),
   ("WRITE4BITS", 0x31), ("WRITE8BITS", 0x32), ("SEND", 0x33), ("COMMAND", 0x34), ("WRITE", 0x35)] ++
  [("DISPLAY_ON", 0x40), ("DISPLAY_OFF", 0x41), ("CURSOR_ON", 0x42), ("CURSOR_OFF", 0x43), ("AUTOSCROLL_ON", 0x44),
   ("AUTOSCROLL_OFF", 0x45), ("LEFT_TO_RIGHT", 0x46), ("RIGHT_TO_LEFT", 0x47), ("SCROLL_LEFT", 0x48),
   ("SCROLL_RIGHT", 0x49), ("CLEAR", 0x4A), ("HOME", 0x4B)] ++
  [("SET_CURSOR", 0x50), ("CREATE_CHAR", 0x51), ("PRINT", 0x60)]

/-- The characters between commas. -/
def splitCommas : List Char → List (List Char)
  | [] => [[]]
  | c :: cs =>
    match splitCommas cs with
    | [] => [[c]]
    | w :: ws => if c = ',' then [] :: w :: ws else (c :: w) :: ws

/-- The characters without the blanks around them. -/
def trimBlanks (cs : List Char) : List Char :=
  ((cs.dropWhile (· = ' ')).reverse.dropWhile (· = ' ')).reverse

/-- The value of a digit in the given base. -/
def digitValue (base : Nat) (c : Char) : Option Nat :=
  let v :=
    if '0'.toNat ≤ c.toNat ∧ c.toNat ≤ '9'.toNat then c.toNat - '0'.toNat
    else if 'a'.toNat ≤ c.toNat ∧ c.toNat ≤ 'f'.toNat then c.toNat - 'a'.toNat + 10
    else if 'A'.toNat ≤ c.toNat ∧ c.toNat ≤ 'F'.toNat then c.toNat - 'A'.toNat + 10
    else base
  if v < base then some v else none

/-- The value of the digits after the value `acc`. -/
def digitsValue (base : Nat) : List Char → Nat → Option Nat
  | [], acc => some acc
  | c :: cs, acc => (digitValue base c).bind fun d => digitsValue base cs (base * acc + d)

/-- A byte in decimal or `0x` hexadecimal (R99). -/
def parseByte (cs : List Char) : Option Byte :=
  let v :=
    match cs with
    | [] => none
    | ['0', 'x'] => none
    | '0' :: 'x' :: ds => digitsValue 16 ds 0
    | ds => digitsValue 10 ds 0
  v.bind fun n => if n < 256 then some (BitVec.ofNat 8 n) else none

/-- The operands of a line, separated by commas; BIND_CTRL may write UNUSED for `rw` (R99). -/
def parseOperands (op : Byte) (cs : List Char) : Option (List Byte) :=
  if cs = [] then some []
  else
    let words := (splitCommas cs).map trimBlanks
    match words with
    | w :: ws =>
      if op = 0x10 ∧ w = "UNUSED".toList then (ws.mapM parseByte).map (0xFF :: ·) else words.mapM parseByte
    | [] => some []

/-- The byte of an ASCII character. -/
def asciiByte (c : Char) : Option Byte := if c.toNat < 128 then some (BitVec.ofNat 8 c.toNat) else none

/-- The double quote character. -/
def quoteChar : Char := Char.ofNat 34

/-- The text of a quoted string; the quotes are the first and the last character. -/
def parseText (cs : List Char) : Option (List Byte) :=
  match cs with
  | q :: rest =>
    if q = quoteChar ∧ rest.getLast? = some quoteChar then rest.dropLast.mapM asciiByte else none
  | [] => none

/-- The bytes of PRINT's operands: a quoted text preceded by its count, or the numbers themselves (R99). -/
def parsePrint (cs : List Char) : Option (List Byte) :=
  match parseText cs with
  | some text => if text.length < 256 then some (BitVec.ofNat 8 text.length :: text) else none
  | none => parseOperands 0x60 cs

/-- The request of a line that holds exactly one request (R99). -/
def assemble (line : String) : Option Instr :=
  let cs := trimBlanks line.toList
  let name := cs.takeWhile (· ≠ ' ')
  let args := trimBlanks (cs.dropWhile (· ≠ ' '))
  (mnemonicTable.find? fun row => row.1.toList = name).bind fun row =>
    (if row.2 = 0x60 then parsePrint args else parseOperands row.2 args).bind fun ops =>
      match decode (row.2 :: ops) with
      | .ok (i, []) => some i
      | _ => none

/-- PRINTF (R112): one PRINT of the formatted text, truncated to at most `P_FMT_BUF - 1` bytes; when formatting fails
(`none`) no PRINT is issued and the host gets the formatting-failure sentinel, which never reaches the engine. A PRINT
holds at most 255 bytes (R96). DESIGN CHOICE (log entry 20): `P_FMT_BUF` 0, for which R112's bound is no byte count, bounds the
text at 0 bytes, as `P_FMT_BUF` 1 does, so one PRINT of an empty text is issued. -/
def expandPrintf (c : Config) (formatted : Option (List Byte)) : Option Instr :=
  formatted.map fun text =>
    let kept := text.take (min (c.fmtBuf - 1) 255)
    .print (BitVec.ofNat 8 kept.length) kept

end Sys2Proof.Machine
end

