-- ==== Sys2Proof/Machine/Instances.lean ====
section
/-! DEFINITION. Several instances side by side (60_exceptions.md R61, R270 to R272).

Each instance has its own state, parameters and inputs. They meet only at physical pins: an event one instance emits reaches
the lines of every other instance whose pin map resolves a role to the same (port, pin) (R272). -/

namespace Sys2Proof.Machine

/-- What an event of ANOTHER instance does to this instance's lines (R272): the event's own role means nothing here, the
(port, pin) pair decides. DESIGN CHOICE (log entry 27): a line follows the events emitted while its role resolves to their
pin; a role bound, or bound again, to a pin another instance has configured or driven before keeps its line's earlier level. -/
def State.foreignStep (s : State) (ls : Lines) : Event → Lines
  | .enableClock _ => ls
  | .configureOutput p q => s.lineStep ls (.configureOutput p q)
  | .setLevel _ p q b =>
    s.activeRoles.foldl (fun acc r => if s.resolve r = (p, q) then acc.put (.driven b) r else acc) ls
  | .delayMs _ => ls

/-- The state after another instance has emitted the events. No register changes (R61). -/
def State.observe (s : State) (es : List Event) : State := { s with lines := es.foldl s.foreignStep s.lines }

/-- The instances of one board (R270); they have no identifier but their place in the list. -/
structure System where
  engines : List State
deriving DecidableEq, Repr

/-- The instances, each constructed with its own parameters (R270, R280). -/
def System.construct (cs : List Config) : System := ⟨cs.map State.construct⟩

/-- The events by which a later trace extends an earlier one. -/
def newEvents (s t : State) : List Event := t.trace.drop s.trace.length

/-- Every member of the list but member `k` (counted from `n` on) after it has observed the events; member `k` replaced. -/
def replaceAt (t : State) (es : List Event) (k : Nat) : Nat → List State → List State
  | _, [] => []
  | n, u :: us => (if n = k then t else u.observe es) :: replaceAt t es k (n + 1) us

/-- Instance `k` takes one step and the other instances' lines see its events (R61, R271, R272). Which instance moves is
the caller's choice: there is no signalling between instances (R270). -/
def System.stepAt (k : Nat) (y : System) : Host.Outcome System Fault Refusal :=
  match y.engines[k]? with
  | none => .next y
  | some s =>
    match step s with
    | .next t => .next ⟨replaceAt t (newEvents s t) k 0 y.engines⟩
    | .fault f => .fault f
    | .refused r => .refused r

end Sys2Proof.Machine
end

