-- ==== Sys2Proof/Safety.lean ====
section
/-! DEFINITION. The terms claims are stated in: what a refused request leaves, what a transmitted byte puts on the bus, the
invariant of the engine, what a list of events must respect, schedules, and the durations of R300. -/

namespace Sys2Proof.Machine

/-- The state in which request `i` is refused with reason `r` (R251): the mark, the record, nothing else. -/
def State.refusedBy (s : State) (r : Reason) (i : Instr) : State :=
  { s with refused := true, lastRefusal := some (r, encode i) }

/-- The port is idle and BEGIN has completed (R140, R258). -/
abbrev State.Ready (s : State) : Prop := s.seq = .idle ∧ s.lifecycle = .ready

/-- The bit-mode invariant (R42). -/
abbrev State.ModeOk (s : State) : Prop :=
  (s.dataCount = .four → s.dl = false) ∧ (s.dataCount = .eight → s.dl = true)

/-- Ready, with data lines bound and DL matching them (R41, R42), as every reachable READY state is. -/
abbrev State.BusReady (s : State) : Prop := s.Ready ∧ s.dataCount ≠ .zero ∧ s.ModeOk

/-- The requests that need a completed BEGIN: all but the bindings and BEGIN (R252). -/
def needsBegin : Instr → Bool
  | .bindCtrl _ _ _ => false
  | .bindData4 _ _ _ _ => false
  | .bindData8 _ _ _ _ _ _ _ _ => false
  | .begin _ _ _ => false
  | _ => true

/-- The binding requests (R122 to R124). -/
def isBinding : Instr → Bool
  | .bindCtrl _ _ _ => true
  | .bindData4 _ _ _ _ => true
  | .bindData8 _ _ _ _ _ _ _ _ => true
  | _ => false

/-- The levels of D0..D(n-1) driven to the low bits of `v` (R73, R74). -/
def bitLevels (n : Nat) (v : Byte) : List Level := (allLines.take n).map fun i => .driven (v.getLsbD i)

/-- A write transfer of the low `n` bits of `v`: RS as given, RW 0 or unwired (R142, R153, R154). -/
def State.transferOf (s : State) (rs : Bool) (n : Nat) (v : Byte) : Transfer where
  rs := .driven rs
  rw := if s.wiredRW then some (.driven false) else none
  bits := bitLevels n v

/-- The transfers of one byte (R154): two nibbles, high first, or the byte at once. -/
def State.byteTransfers (s : State) (rs : Bool) (v : Byte) : List Transfer :=
  match s.dataCount with
  | .zero => []
  | .four => [s.transferOf rs 4 (v >>> 4), s.transferOf rs 4 (v &&& 0x0F)]
  | .eight => [s.transferOf rs 8 v]

/-- The lines after a byte is transmitted (R152): RS as given, RW 0 when wired, EN 0, the bound data lines at the byte or at
its low nibble, any other line as it was. -/
def State.linesAfter (s : State) (rs : Bool) (v : Byte) (ls : Lines) : Lines where
  rs := .driven rs
  rw := if s.wiredRW then .driven false else ls.rw
  en := .driven false
  d := Vector.ofFn fun i => if i.val < s.dataCount.count then .driven (v.getLsbD i) else ls.d[i]

/-- 1 if RW is wired, else 0 (R154). -/
def State.wiredCount (s : State) : Nat := if s.wiredRW then 1 else 0

/-- The number of events of one transmitted byte (R154): `1 + w + 2*(4 + 6)` in 4-bit mode, `1 + w + 8 + 6` in 8-bit mode. -/
def State.byteEvents (s : State) : Nat :=
  match s.dataCount with
  | .zero => 0
  | .four => 1 + s.wiredCount + 2 * (4 + 6)
  | .eight => 1 + s.wiredCount + 8 + 6

/-- The table of R300: the least duration in ms of a request at default timings, in 4-bit mode (`eight = false`) and in 8-bit
mode. PRINT writes the bytes before the first 0x00 (R243). -/
def tableMs (eight : Bool) : Instr → Nat
  | .bindCtrl _ _ _ => 0
  | .bindData4 _ _ _ _ => 0
  | .bindData8 _ _ _ _ _ _ _ _ => 0
  | .begin _ _ _ => if eight then 84 else 99
  | .pulseEnable => 3
  | .write4bits _ => 3
  | .write8bits _ => 3
  | .clear => if eight then 5 else 8
  | .home => if eight then 5 else 8
  | .createChar _ _ _ _ _ _ _ _ _ => if eight then 27 else 54
  | .print n text => (if eight then 3 else 6) * ((text.take n.toNat).takeWhile (· ≠ 0x00)).length
  | _ => if eight then 3 else 6

/-- No event on RS, RW or a data line falls while EN is high, and EN is low at the end (R142). `high` is EN's level before
the list. -/
def quietWhileHigh : Bool → List Event → Bool
  | high, [] => !high
  | high, .setLevel r _ _ b :: es => if r = .en then quietWhileHigh b es else !high && quietWhileHigh high es
  | high, .configureOutput _ _ :: es => !high && quietWhileHigh high es
  | high, .enableClock _ :: es => quietWhileHigh high es
  | high, .delayMs _ :: es => quietWhileHigh high es

/-- Every rising EN is held for at least 1 ms, then falls, and at least 1 ms passes before the next bus event (R143). -/
def pulsesTimed : List Event → Bool
  | [] => true
  | e :: es =>
    (if e.raisesEN then
      match es with
      | .delayMs n :: .setLevel .en _ _ false :: .delayMs m :: _ => decide (1 ≤ n) && decide (1 ≤ m)
      | _ => false
    else true) && pulsesTimed es

/-- The events drive the RW line only to 0, and not at all when RW is unwired (R153, R38). -/
def rwQuiet (wired : Bool) (es : List Event) : Prop := ∀ e ∈ es, ∀ p q b, e = .setLevel .rw p q b → wired = true ∧ b = false

/-- The arguments of the `DelayMs` events, in order. -/
def delaysOf (es : List Event) : List Nat :=
  es.filterMap fun e =>
    match e with
    | .delayMs n => some n
    | _ => none

/-- A schedule gives the start time of every event, in ms, and the time the last one completed. An event starts no earlier
than the one before it completed, and a `DelayMs n` takes at least `n` ms (R58, R83). DESIGN CHOICE (log entry 28): the times are whole milliseconds. -/
def respects : List Event → List Nat → Bool
  | [], [_] => true
  | e :: es, t :: u :: ts => decide (t + e.minMs ≤ u) && respects es (u :: ts)
  | _, _ => false

/-- What one event makes of the level of a pin (R53), whoever emits it (R272): a `ConfigureOutput` of the pin takes UNDRIVEN to
UNKNOWN, a `SetLevel` on it drives it, and any other event leaves it. -/
def Level.onPin (pin : Port × Byte) (l : Level) : Event → Level
  | .configureOutput p q => if pin = (p, q) ∧ l = .undriven then .unknown else l
  | .setLevel _ p q b => if pin = (p, q) then .driven b else l
  | .enableClock _ => l
  | .delayMs _ => l

/-- Two states that agree on every register requests read: they may differ in the bus lines, the trace, the refusal mark
and record, and the last result (R47, R48, R52). -/
def State.SameInputs (s u : State) : Prop :=
  u = { s with lines := u.lines, trace := u.trace, refused := u.refused, lastRefusal := u.lastRefusal, result := u.result }

/-- The reserved bits read 0 (R32, R33, R34). -/
abbrev State.ReservedOk (s : State) : Prop :=
  s.function &&& 0xE3 = 0 ∧ s.control &&& 0xF8 = 0 ∧ s.entryMode &&& 0xFC = 0

/-- The row count: 0 before any BEGIN, in 1..4 after (R36). -/
abbrev State.RowsOk (s : State) : Prop :=
  (s.lifecycle = .constructed → s.numRows = 0) ∧ (s.lifecycle = .ready → 1 ≤ s.numRows ∧ s.numRows ≤ 4)

/-- The control pins: bound ones legal, RW possibly UNUSED (R38, R39, R121). -/
abbrev State.PinsOk (s : State) : Prop :=
  s.ctrlBound = true → s.pinOK s.pinEN = true ∧ s.pinOK s.pinRS = true ∧ s.rwPinOK s.pinRW = true

/-- The data pins: bound ones legal, the other entries UNUSED (R41). -/
abbrev State.DataOk (s : State) : Prop :=
  ∀ i : Fin 8, (i.val < s.dataCount.count → s.pinOK s.data[i] = true) ∧ (s.dataCount.count ≤ i.val → s.data[i] = 0xFF)

/-- After a BEGIN everything is bound and no two wired roles share a pin (R128, R170). -/
abbrev State.BoundOk (s : State) : Prop :=
  s.lifecycle = .ready → s.ctrlBound = true ∧ s.dataCount ≠ .zero ∧ s.aliasFree = true

/-- The lines are what the trace makes of the levels at construction (R30, R53), and no event precedes the first BEGIN. -/
abbrev State.LinesOk (s : State) : Prop :=
  s.replay Lines.reset s.trace = s.lines ∧ (s.lifecycle = .constructed → s.trace = [])

/-- A level that is driven. -/
def Level.isDriven : Level → Bool
  | .driven _ => true
  | _ => false

/-- After a BEGIN every wired line is driven, so no transfer holds an UNKNOWN level (R141, R142). -/
abbrev State.DrivenOk (s : State) : Prop := s.lifecycle = .ready → ∀ r ∈ s.activeRoles, (s.lines.get r).isDriven = true

/-- The invariant of an idle engine. -/
structure State.IdleInv (s : State) : Prop where
  idle : s.seq = .idle
  cfg : s.cfg.Ok
  settled : s.lifecycle ≠ .initializing
  reserved : s.ReservedOk
  rows : s.RowsOk
  mode : s.ModeOk
  pins : s.PinsOk
  data : s.DataOk
  bound : s.BoundOk
  lines : s.LinesOk
  driven : s.DrivenOk
  mark : s.refused = s.lastRefusal.isSome

/-- The invariant: an idle engine is as above; a busy one has run the part `pre` of an accepted request's expansion from a
state that was, its position is the number of events of `pre`, and `pre` is empty or ends with an event (R45). -/
def State.Inv (s : State) : Prop :=
  match s.seq with
  | .idle => s.IdleInv
  | .busy req pos rest =>
    ∃ (a : State) (pre : List Micro), a.IdleInv ∧ checkOf req a = none ∧ bodyOf req a = pre ++ rest ∧
      pos = (eventsOf pre).length ∧ (∀ w, pre.getLast? ≠ some (.write w)) ∧ s = { a.run pre with seq := .busy req pos rest }

end Sys2Proof.Machine
end

