-- ==== Sys2Proof/Certificates/Slice0/Obligations.lean ====
section
/-! DEFINITION. The statements for the provers. Each says which rule of spec/ it formalises.

The command byte values and bit positions in these statements are the ones the rules give; the rules mark them as general
knowledge (log entry 9). -/

open Sys2Proof Sys2Proof.Machine

/-- R60, R280: construction leaves every register at the value R60 gives, whatever the parameters. (That the trace and the
host's inputs are empty is not said here: they are the model's own, log entry 2.) -/
def Obligations.ConstructionGivesResetValues : Prop :=
  ∀ c : Config, ∃ trace inputs,
    State.construct c =
      { function := 0x00, control := 0x00, entryMode := 0x00, numRows := 0, rowOffset := #v[0x00, 0x00, 0x00, 0x00],
        pinRW := 0xFF, pinEN := 0xFF, pinRS := 0xFF, ctrlBound := false,
        data := #v[0xFF, 0xFF, 0xFF, 0xFF, 0xFF, 0xFF, 0xFF, 0xFF], dataCount := .zero, lifecycle := .constructed,
        seq := .idle, refused := false, lastRefusal := none, result := none,
        lines := ⟨.undriven, .undriven, .undriven, #v[.undriven, .undriven, .undriven, .undriven, .undriven, .undriven,
          .undriven, .undriven]⟩,
        trace := trace, cfg := c, inputs := inputs }

/-! ### Encoding and the request port -/

/-- R90 to R93, R95, R100: an encoded request decodes to itself, and the bytes after it are left. -/
def Obligations.DecodeOfEncode : Prop :=
  ∀ (i : Instr) (rest : List Byte), i.wellFormed = true → decode (encode i ++ rest) = .ok (i, rest)

/-- R90 to R93, R100: whatever decodes is a request's encoding followed by the bytes left. -/
def Obligations.EncodeOfDecode : Prop :=
  ∀ (bytes : List Byte) (i : Instr) (rest : List Byte),
    decode bytes = .ok (i, rest) → i.wellFormed = true ∧ bytes = encode i ++ rest

/-- R94, R251, R253: exactly the opcodes of the listed ranges are reserved, and presenting one at an idle port is refused
`BadOpcode` with no other effect. That the whole presentation is recorded and dropped is the model's choice (log entry 5). -/
def Obligations.ReservedOpcodesAreRefused : Prop :=
  (∀ (op : Byte) (args : List Byte),
    decode (op :: args) = .error .badOpcode ↔
      (op.toNat ≤ 0x0F ∨ (0x13 ≤ op.toNat ∧ op.toNat ≤ 0x1F) ∨ (0x21 ≤ op.toNat ∧ op.toNat ≤ 0x2F) ∨
        (0x36 ≤ op.toNat ∧ op.toNat ≤ 0x3F) ∨ (0x4C ≤ op.toNat ∧ op.toNat ≤ 0x4F) ∨
        (0x52 ≤ op.toNat ∧ op.toNat ≤ 0x5F) ∨ 0x61 ≤ op.toNat)) ∧
  (∀ (s : State) (op : Byte) (args : List Byte) (later : List Input),
    s.seq = .idle → (s.inputs = .call (op :: args) :: later ∨ s.inputs = .post (op :: args) :: later) →
      decode (op :: args) = .error .badOpcode →
      step s = .next { s with inputs := later, refused := true, lastRefusal := some (.badOpcode, op :: args) })

/-- R95, R251, R253: a request cut short is refused `Truncated`; bytes beyond a request's length are not part of it and are the
start of the next one. That the whole short presentation is recorded and dropped (log entry 5), and that surplus bytes stay as an
input of the same kind (log entry 6), are the model's choices. -/
def Obligations.TruncatedAndSurplusBytes : Prop :=
  (∀ (s : State) (i : Instr) (k : Nat) (later : List Input),
    i.wellFormed = true → k < (encode i).length → s.seq = .idle →
      (s.inputs = .call ((encode i).take k) :: later ∨ s.inputs = .post ((encode i).take k) :: later) →
      step s = .next { s with inputs := later, refused := true, lastRefusal := some (.truncated, (encode i).take k) }) ∧
  (∀ (s : State) (i : Instr) (b : Byte) (rest : List Byte) (later : List Input),
    i.wellFormed = true → s.seq = .idle →
      (s.inputs = .call (encode i ++ b :: rest) :: later → step s = exec i { s with inputs := .call (b :: rest) :: later }) ∧
      (s.inputs = .post (encode i ++ b :: rest) :: later → ∃ t, step s = .next t ∧ t.inputs = .post (b :: rest) :: later))

/-- R93: some requests written out byte by byte from the opcode map and the worked examples of the request rules. -/
def Obligations.SampleRequestsDecode : Prop :=
  decode [0x10, 0xFF, 0x05, 0x04] = .ok (.bindCtrl 0xFF 5 4, []) ∧
  decode [0x11, 0x00, 0x01, 0x02, 0x03] = .ok (.bindData4 0 1 2 3, []) ∧
  decode [0x12, 0x00, 0x01, 0x02, 0x03, 0x04, 0x05, 0x06, 0x07] = .ok (.bindData8 0 1 2 3 4 5 6 7, []) ∧
  decode [0x20, 0x10, 0x02, 0x00] = .ok (.begin 16 2 0, []) ∧
  decode [0x33, 0x41, 0x01] = .ok (.send 0x41 1, []) ∧
  decode [0x42] = .ok (.cursorOn, []) ∧
  decode [0x50, 0x03, 0x01] = .ok (.setCursor 3 1, []) ∧
  decode [0x60, 0x02, 0x41, 0x42, 0x43] = .ok (.print 2 [0x41, 0x42], [0x43])

/-- R90, R95, R258: at an idle port a presentation that decodes is that request, run to completion. That the bytes after it
stay as a `call` in front of the host's later inputs is the model's form of R95 (log entry 6). -/
def Obligations.StepRunsTheDecodedRequest : Prop :=
  ∀ (s : State) (bytes : List Byte) (later : List Input) (i : Instr) (rest : List Byte),
    s.seq = .idle → s.inputs = .call bytes :: later → decode bytes = .ok (i, rest) →
      step s = exec i { s with inputs := if rest = [] then later else .call rest :: later }

/-! ### Refusals -/

/-- R251, R253: a step that records a refusal changes nothing but the mark, the record and the host's inputs; the record holds
a reason and the bytes of the presentation, up to the end of the refused request (which of these is log entry 5, the model's
choice). A request whose checks give a reason is refused so, also when the record was the same before. -/
def Obligations.RefusalChangesOnlyTheMark : Prop :=
  (∀ (s t : State), step s = .next t → t.lastRefusal ≠ s.lastRefusal →
    t = { s with refused := true, lastRefusal := t.lastRefusal, inputs := t.inputs } ∧
    ∃ r bytes presented later, t.lastRefusal = some (r, bytes) ∧ bytes <+: presented ∧
      (s.inputs = .call presented :: later ∨ s.inputs = .post presented :: later)) ∧
  (∀ (s : State) (i : Instr) (r : Reason), s.seq = .idle → checkOf i s = some r → exec i s = .next (s.refusedBy r i))

/-- R258, R251, R295: a presentation while a request runs is refused `Busy`, and the running request is unaffected. That the
whole presentation is recorded and dropped is the model's choice (log entry 5); that `exec` in a busy state is such a presentation
is the model's reading (log entry 13). -/
def Obligations.BusyPortRefuses : Prop :=
  (∀ (s : State) (req : Instr) (pos : Nat) (rest : List Micro) (bytes : List Byte) (later : List Input),
    s.seq = .busy req pos rest → (s.inputs = .call bytes :: later ∨ s.inputs = .post bytes :: later) →
      step s = .next { s with inputs := later, refused := true, lastRefusal := some (.busy, bytes) }) ∧
  (∀ (s : State) (req : Instr) (pos : Nat) (rest : List Micro) (i : Instr),
    s.seq = .busy req pos rest → exec i s = .next (s.refusedBy .busy i))

/-- R47: the refusal mark is sticky. -/
def Obligations.RefusedMarkIsSticky : Prop :=
  ∀ (s t : State), step s = .next t → s.refused = true → t.refused = true

/-- R140, R200, R240: every request but the bindings and BEGIN is refused `NotBegun` unless the lifecycle is READY, before any
check of its operands. -/
def Obligations.BusRequestsNeedBegin : Prop :=
  ∀ (s : State) (i : Instr), s.seq = .idle → s.lifecycle ≠ .ready → needsBegin i = true →
    exec i s = .next (s.refusedBy .notBegun i)

/-- R122, R123, R124, R296: a binding after any BEGIN is refused `RebindAfterBegin`, whatever its pins. -/
def Obligations.NoRebindingAfterBegin : Prop :=
  ∀ (s : State) (i : Instr), s.seq = .idle → s.lifecycle ≠ .constructed → isBinding i = true →
    exec i s = .next (s.refusedBy .rebindAfterBegin i)

/-- R170, R252, R254: BEGIN's refusals in their order, and no other. -/
def Obligations.BeginRefusalsInOrder : Prop :=
  ∀ (s : State) (cols rows font : Byte), s.seq = .idle →
    (¬ (1 ≤ rows.toNat ∧ rows.toNat ≤ 4) →
      exec (.begin cols rows font) s = .next (s.refusedBy .badRows (.begin cols rows font))) ∧
    (1 ≤ rows.toNat ∧ rows.toNat ≤ 4 → (s.ctrlBound = false ∨ s.dataCount = .zero) →
      exec (.begin cols rows font) s = .next (s.refusedBy .notBound (.begin cols rows font))) ∧
    (1 ≤ rows.toNat ∧ rows.toNat ≤ 4 → s.ctrlBound = true → s.dataCount ≠ .zero →
      (¬ ∀ r ∈ s.activeRoles, ∀ q ∈ s.activeRoles, s.resolve r = s.resolve q → r = q) →
      exec (.begin cols rows font) s = .next (s.refusedBy .aliasedPins (.begin cols rows font)))

/-! ### The pin map -/

/-- R122: BIND_CTRL, bytes `0x10 rw en rs`, binds the control pins and emits nothing; a bad pin is refused; binding after a BEGIN is refused. -/
def Obligations.BindCtrlResult : Prop :=
  ∀ (s : State) (rw en rs : Byte), s.seq = .idle →
    encode (.bindCtrl rw en rs) = [0x10, rw, en, rs] ∧
    (s.lifecycle = .constructed → en.toNat < s.cfg.pinCount → rs.toNat < s.cfg.pinCount →
      (rw = 0xFF ∨ rw.toNat < s.cfg.pinCount) →
      exec (.bindCtrl rw en rs) s =
        .next { s with pinRW := rw, pinEN := en, pinRS := rs, ctrlBound := true, result := none }) ∧
    (s.lifecycle = .constructed →
      ¬ (en.toNat < s.cfg.pinCount ∧ rs.toNat < s.cfg.pinCount ∧ (rw = 0xFF ∨ rw.toNat < s.cfg.pinCount)) →
      exec (.bindCtrl rw en rs) s = .next (s.refusedBy .badPin (.bindCtrl rw en rs))) ∧
    (s.lifecycle ≠ .constructed →
      exec (.bindCtrl rw en rs) s = .next (s.refusedBy .rebindAfterBegin (.bindCtrl rw en rs)))

/-- R123: BIND_DATA4, bytes `0x11 d0 d1 d2 d3`, binds four data pins, makes the other entries UNUSED, and clears DL and no other bit. -/
def Obligations.BindData4Result : Prop :=
  ∀ (s : State) (d0 d1 d2 d3 : Byte), s.seq = .idle →
    encode (.bindData4 d0 d1 d2 d3) = [0x11, d0, d1, d2, d3] ∧
    (s.lifecycle = .constructed → (∀ p ∈ [d0, d1, d2, d3], p.toNat < s.cfg.pinCount) →
      exec (.bindData4 d0 d1 d2 d3) s =
        .next { s with data := #v[d0, d1, d2, d3, 0xFF, 0xFF, 0xFF, 0xFF], dataCount := .four,
                       function := s.function &&& 0xEF, result := none }) ∧
    (s.lifecycle = .constructed → (¬ ∀ p ∈ [d0, d1, d2, d3], p.toNat < s.cfg.pinCount) →
      exec (.bindData4 d0 d1 d2 d3) s = .next (s.refusedBy .badPin (.bindData4 d0 d1 d2 d3))) ∧
    (s.lifecycle ≠ .constructed →
      exec (.bindData4 d0 d1 d2 d3) s = .next (s.refusedBy .rebindAfterBegin (.bindData4 d0 d1 d2 d3)))

/-- R124: BIND_DATA8, bytes `0x12 d0 .. d7`, binds eight data pins and sets DL and no other bit. -/
def Obligations.BindData8Result : Prop :=
  ∀ (s : State) (d0 d1 d2 d3 d4 d5 d6 d7 : Byte), s.seq = .idle →
    encode (.bindData8 d0 d1 d2 d3 d4 d5 d6 d7) = [0x12, d0, d1, d2, d3, d4, d5, d6, d7] ∧
    (s.lifecycle = .constructed → (∀ p ∈ [d0, d1, d2, d3, d4, d5, d6, d7], p.toNat < s.cfg.pinCount) →
      exec (.bindData8 d0 d1 d2 d3 d4 d5 d6 d7) s =
        .next { s with data := #v[d0, d1, d2, d3, d4, d5, d6, d7], dataCount := .eight,
                       function := s.function ||| 0x10, result := none }) ∧
    (s.lifecycle = .constructed → (¬ ∀ p ∈ [d0, d1, d2, d3, d4, d5, d6, d7], p.toNat < s.cfg.pinCount) →
      exec (.bindData8 d0 d1 d2 d3 d4 d5 d6 d7) s = .next (s.refusedBy .badPin (.bindData8 d0 d1 d2 d3 d4 d5 d6 d7))) ∧
    (s.lifecycle ≠ .constructed →
      exec (.bindData8 d0 d1 d2 d3 d4 d5 d6 d7) s =
        .next (s.refusedBy .rebindAfterBegin (.bindData8 d0 d1 d2 d3 d4 d5 d6 d7)))

/-- R123, R124, R125: of two accepted data bindings the last wins: the state is as if the first had never been issued. -/
def Obligations.LastDataBindingWins : Prop :=
  ∀ (s t : State) (d0 d1 d2 d3 e0 e1 e2 e3 e4 e5 e6 e7 : Byte),
    s.seq = .idle → s.lifecycle = .constructed → (∀ p ∈ [d0, d1, d2, d3], p.toNat < s.cfg.pinCount) →
    (∀ p ∈ [e0, e1, e2, e3, e4, e5, e6, e7], p.toNat < s.cfg.pinCount) →
    (exec (.bindData8 e0 e1 e2 e3 e4 e5 e6 e7) s = .next t → exec (.bindData4 d0 d1 d2 d3) t = exec (.bindData4 d0 d1 d2 d3) s) ∧
    (exec (.bindData4 d0 d1 d2 d3) s = .next t →
      exec (.bindData8 e0 e1 e2 e3 e4 e5 e6 e7) t = exec (.bindData8 e0 e1 e2 e3 e4 e5 e6 e7) s)

/-! ### Transmission -/

/-- R141, R142: PULSE_ENABLE emits the six events of the pulse, and the one transfer it makes is what the lines hold. -/
def Obligations.PulseEnableResult : Prop :=
  ∀ s : State, s.Ready →
    let en (b : Bool) : Event := .setLevel .en s.cfg.portEN s.pinEN b
    let evs := [en false, .delayMs s.cfg.tEnPre, en true, .delayMs s.cfg.tEnHigh, en false, .delayMs s.cfg.tEnSettle]
    exec .pulseEnable s =
      .next { s with trace := s.trace ++ evs, lines := { s.lines with en := .driven false }, result := none } ∧
    s.transfersFrom s.lines evs =
      [⟨s.lines.rs, if s.wiredRW then some s.lines.rw else none, s.dataLines.map fun i => s.lines.d[i]⟩]

/-- R145, R147, R149: WRITE4BITS drives D0..D3 from `v[3:0]` and pulses; RS, RW and D4..D7 keep their levels, and the one
transfer shows exactly that. -/
def Obligations.Write4bitsResult : Prop :=
  ∀ (s : State) (v : Byte), s.Ready → s.dataCount ≠ .zero →
    ∃ evs : List Event,
      exec (.write4bits v) s =
        .next { s with trace := s.trace ++ evs, result := none,
                       lines := { s.lines with
                         en := .driven false,
                         d := Vector.ofFn fun i => if i.val < 4 then .driven (v.getLsbD i) else s.lines.d[i] } } ∧
      evs.take 4 = [.setLevel (.d 0) s.cfg.portData s.data[0] (v.getLsbD 0),
        .setLevel (.d 1) s.cfg.portData s.data[1] (v.getLsbD 1), .setLevel (.d 2) s.cfg.portData s.data[2] (v.getLsbD 2),
        .setLevel (.d 3) s.cfg.portData s.data[3] (v.getLsbD 3)] ∧
      evs.length = 10 ∧
      s.transfersFrom s.lines evs =
        [⟨s.lines.rs, if s.wiredRW then some s.lines.rw else none,
          bitLevels 4 v ++ (if s.dataCount = .eight then [s.lines.d[4], s.lines.d[5], s.lines.d[6], s.lines.d[7]] else [])⟩]

/-- R146: WRITE4BITS ignores bits 7:4 of its operand. -/
def Obligations.Write4bitsIgnoresUpperBits : Prop :=
  ∀ (s : State) (v : Byte), s.Ready → exec (.write4bits v) s = exec (.write4bits (v &&& 0x0F)) s

/-- R150, R151: WRITE8BITS drives D0..D7 from `v` and pulses, RS and RW keeping their levels; with four data pins it is
refused `WidthMismatch`. -/
def Obligations.Write8bitsResult : Prop :=
  ∀ (s : State) (v : Byte), s.Ready →
    (s.dataCount = .eight →
      ∃ evs : List Event,
        exec (.write8bits v) s =
          .next { s with trace := s.trace ++ evs, result := none,
                         lines := { s.lines with en := .driven false, d := Vector.ofFn fun i => .driven (v.getLsbD i) } } ∧
        evs.take 8 = [.setLevel (.d 0) s.cfg.portData s.data[0] (v.getLsbD 0),
          .setLevel (.d 1) s.cfg.portData s.data[1] (v.getLsbD 1), .setLevel (.d 2) s.cfg.portData s.data[2] (v.getLsbD 2),
          .setLevel (.d 3) s.cfg.portData s.data[3] (v.getLsbD 3), .setLevel (.d 4) s.cfg.portData s.data[4] (v.getLsbD 4),
          .setLevel (.d 5) s.cfg.portData s.data[5] (v.getLsbD 5), .setLevel (.d 6) s.cfg.portData s.data[6] (v.getLsbD 6),
          .setLevel (.d 7) s.cfg.portData s.data[7] (v.getLsbD 7)] ∧
        evs.length = 14 ∧
        s.transfersFrom s.lines evs = [⟨s.lines.rs, if s.wiredRW then some s.lines.rw else none, bitLevels 8 v⟩]) ∧
    (s.dataCount ≠ .eight → exec (.write8bits v) s = .next (s.refusedBy .widthMismatch (.write8bits v)))

/-- R152, R153: SEND drives RS, then RW low if wired, before any data line, and no other line before them; a `mode` that is
not 0 or 1 is refused `BadOperand`. -/
def Obligations.SendDrivesControlLinesFirst : Prop :=
  ∀ (s : State) (v mode : Byte), s.Ready →
    let rs : Event := .setLevel .rs s.cfg.portRS s.pinRS (mode == 1)
    let first : List Event := if s.pinRW ≠ 0xFF then [rs, .setLevel .rw s.cfg.portRW s.pinRW false] else [rs]
    ((mode = 0 ∨ mode = 1) → ∃ t evs, exec (.send v mode) s = .next t ∧ t.trace = s.trace ++ (first ++ evs) ∧
      ∀ e ∈ evs, ∀ r p q b, e = .setLevel r p q b → r ≠ .rs ∧ r ≠ .rw) ∧
    (mode ≠ 0 → mode ≠ 1 → exec (.send v mode) s = .next (s.refusedBy .badOperand (.send v mode)))

/-- R152, R154 to R157: SEND, COMMAND and WRITE transmit one byte, as two nibble transfers high first or as one byte
transfer, with RS 0 for a command and 1 for data; nothing but the trace, the lines and the result changes, and the result is
1 for WRITE and none for the others. -/
def Obligations.SendCommandWriteResult : Prop :=
  ∀ (s : State) (i : Instr) (v : Byte) (rs : Bool) (res : Option Byte), s.BusReady →
    ((i = .send v 0 ∧ rs = false ∧ res = none) ∨ (i = .send v 1 ∧ rs = true ∧ res = none) ∨
      (i = .command v ∧ rs = false ∧ res = none) ∨ (i = .write v ∧ rs = true ∧ res = some 1)) →
    ∃ evs : List Event,
      exec i s = .next { s with trace := s.trace ++ evs, lines := s.linesAfter rs v s.lines, result := res } ∧
      s.transfersFrom s.lines evs = s.byteTransfers rs v ∧ evs.length = s.byteEvents

/-! ### Initialization -/

/-- R170, R172, R175 to R184: what BEGIN does to the registers and the lines, and the transfers it makes: the handshake, the
function set, display control, clear, entry mode. N and F are only set; bits
without a name stay as they were. -/
def Obligations.BeginResult : Prop :=
  ∀ (s : State) (cols rows font : Byte), s.seq = .idle → 1 ≤ rows.toNat → rows.toNat ≤ 4 → s.ctrlBound = true →
    s.dataCount ≠ .zero → s.ModeOk → s.aliasFree = true →
    let f1 := if 1 < rows.toNat then s.function ||| 0x08 else s.function
    let f := if font ≠ 0 ∧ rows = 1 then f1 ||| 0x04 else f1
    let ctl := (s.control &&& 0xF8) ||| 0x04
    let em := (s.entryMode &&& 0xFC) ||| 0x02
    ∃ evs : List Event,
      exec (.begin cols rows font) s =
        .next { s with function := f, control := ctl, entryMode := em, numRows := rows.toNat,
                       rowOffset := #v[0x00, 0x40, cols, 0x40 + cols], lifecycle := .ready, result := none,
                       trace := s.trace ++ evs, lines := s.linesAfter false (0x04 ||| em) s.lines } ∧
      s.transfersFrom s.lines evs =
        (if s.dataCount = .eight then
          s.byteTransfers false (0x20 ||| f) ++ s.byteTransfers false (0x20 ||| f) ++ s.byteTransfers false (0x20 ||| f)
        else
          [s.transferOf false 4 0x3, s.transferOf false 4 0x3, s.transferOf false 4 0x3, s.transferOf false 4 0x2]) ++
        s.byteTransfers false (0x20 ||| f) ++ s.byteTransfers false (0x08 ||| ctl) ++ s.byteTransfers false 0x01 ++
        s.byteTransfers false (0x04 ||| em)

/-- R171, R45: the phases of BEGIN in order, the number of events of each, and the phase a running BEGIN is in, which its
position determines. That position 0 is in S2 and no position in S1, which has no events, is the model's choice (log
entry 26). -/
def Obligations.BeginPhaseEventCounts : Prop :=
  ∀ (s : State) (cols rows font : Byte), s.dataCount ≠ .zero → s.ModeOk →
    let w := s.wiredCount
    let k := s.clockPorts.length
    let b := s.byteEvents
    let n2 := k + 2 + w + s.dataCount.count
    let n5 := if s.dataCount = .eight then 3 * b + 3 else 4 * 10 + 3
    (beginPhases cols rows font s).map (fun ph => (ph.1, (eventsOf ph.2).length)) =
      [(.S1, 0), (.S2, n2), (.S3, 1), (.S4, 2 + w), (.S5, n5), (.S6, b), (.S7, b), (.S8, b + 1), (.S9, b)] ∧
    bodyOf (.begin cols rows font) s = ((beginPhases cols rows font s).map Prod.snd).flatten ∧
    ∀ pos rest, s.seq = .busy (.begin cols rows font) pos rest →
      s.initPhase = some (
        if pos < n2 then .S2
        else if pos < n2 + 1 then .S3
        else if pos < n2 + 1 + (2 + w) then .S4
        else if pos < n2 + 1 + (2 + w) + n5 then .S5
        else if pos < n2 + 1 + (2 + w) + n5 + b then .S6
        else if pos < n2 + 1 + (2 + w) + n5 + 2 * b then .S7
        else if pos < n2 + 1 + (2 + w) + n5 + 3 * b + 1 then .S8
        else .S9)

/-- R126, R127: the trace of BEGIN starts with one clock enable for each distinct port, in the order of R126 with first
occurrences kept (`List.dedup` keeps last ones), then one output configuration for each wired role in the order of R127, and
holds no other clock enable or configuration. -/
def Obligations.BeginEnablesEachPortOnceThenConfigures : Prop :=
  ∀ (s t : State) (cols rows font : Byte), s.seq = .idle → 1 ≤ rows.toNat → rows.toNat ≤ 4 → s.ctrlBound = true →
    s.dataCount ≠ .zero → s.aliasFree = true → exec (.begin cols rows font) s = .next t →
    let ports : List Port :=
      if s.pinRW ≠ 0xFF then [s.cfg.portData, s.cfg.portRW, s.cfg.portEN, s.cfg.portRS]
      else [s.cfg.portData, s.cfg.portEN, s.cfg.portRS]
    let data : List Role :=
      if s.dataCount = .eight then [.d 0, .d 1, .d 2, .d 3, .d 4, .d 5, .d 6, .d 7] else [.d 0, .d 1, .d 2, .d 3]
    let roles : List Role := .rs :: if s.pinRW ≠ 0xFF then .rw :: .en :: data else .en :: data
    let clocks : List Event := ports.reverse.dedup.reverse.map .enableClock
    let outputs : List Event := roles.map fun r => .configureOutput (s.resolve r).1 (s.resolve r).2
    ∃ after : List Event, t.trace = s.trace ++ (clocks ++ (outputs ++ after)) ∧
      (∀ e ∈ after, (∀ p, e ≠ .enableClock p) ∧ ∀ p q, e ≠ .configureOutput p q)

/-- R174, R175, R176: in 4-bit mode, after the configurations come the power-on settle, the command-ready state and the
handshake: four bare nibbles 3, 3, 3, 2 with the three delays after the first three; and right after the fourth nibble's pulse, with
no delay of its own, the final function set's RS (R178). That the delays follow the first three is the spec's own reading (R176,
decision D25). -/
def Obligations.FourBitHandshakeEvents : Prop :=
  ∀ (s : State) (cols rows font : Byte), s.seq = .idle → 1 ≤ rows.toNat → rows.toNat ≤ 4 → s.ctrlBound = true →
    s.dataCount = .four → s.ModeOk → s.aliasFree = true →
    let set (r : Role) (b : Bool) : Event := .setLevel r (s.resolve r).1 (s.resolve r).2 b
    let ready : List Event :=
      if s.pinRW ≠ 0xFF then [set .rs false, set .en false, set .rw false] else [set .rs false, set .en false]
    let nibble (b3 b2 b1 b0 : Bool) : List Event :=
      [set (.d 0) b0, set (.d 1) b1, set (.d 2) b2, set (.d 3) b3, set .en false, .delayMs s.cfg.tEnPre, set .en true,
       .delayMs s.cfg.tEnHigh, set .en false, .delayMs s.cfg.tEnSettle]
    ∃ t, exec (.begin cols rows font) s = .next t ∧
      ((newEvents s t).drop (s.clockPorts.length + s.activeRoles.length)).take (1 + (2 + s.wiredCount) + 43 + 1) =
        .delayMs s.cfg.tPowerOn :: (ready ++
          (nibble false false true true ++ .delayMs s.cfg.tInit1 :: (nibble false false true true ++ .delayMs s.cfg.tInit2 ::
            (nibble false false true true ++ .delayMs s.cfg.tInit3 :: (nibble false false true false ++ [set .rs false])))))

/-- R174, R176, R177, R180, R290: the delays of BEGIN in order: the power-on settle, the handshake with its three delays (after
each of the three attempts, in both modes), and the wait after the clear; every pulse has its own three. -/
def Obligations.BeginDelaysInOrder : Prop :=
  ∀ (s t : State) (cols rows font : Byte), s.seq = .idle → 1 ≤ rows.toNat → rows.toNat ≤ 4 → s.ctrlBound = true →
    s.dataCount ≠ .zero → s.ModeOk → s.aliasFree = true → exec (.begin cols rows font) s = .next t →
    let pulse := [s.cfg.tEnPre, s.cfg.tEnHigh, s.cfg.tEnSettle]
    let byte := if s.dataCount = .eight then pulse else pulse ++ pulse
    delaysOf (newEvents s t) =
      [s.cfg.tPowerOn] ++ pulse ++ [s.cfg.tInit1] ++ pulse ++ [s.cfg.tInit2] ++ pulse ++ [s.cfg.tInit3] ++
      (if s.dataCount = .eight then [] else pulse) ++ byte ++ byte ++ byte ++ [s.cfg.tClear] ++ byte

/-! ### Display state -/

/-- R201 to R204, R214: the display-control toggles. The register is masked in place, the display-control command is sent
once with the whole register, and nothing else changes. -/
def Obligations.ControlTogglesResult : Prop :=
  ∀ (s : State) (i : Instr) (c : Byte), s.BusReady →
    ((i = .displayOn ∧ c = s.control ||| 0x04) ∨ (i = .displayOff ∧ c = s.control &&& 0xFB) ∨
      (i = .cursorOn ∧ c = s.control ||| 0x03) ∨ (i = .cursorOff ∧ c = s.control &&& 0xFC)) →
    ∃ evs : List Event,
      exec i s = .next { s with control := c, trace := s.trace ++ evs, lines := s.linesAfter false (0x08 ||| c) s.lines,
                                result := none } ∧
      s.transfersFrom s.lines evs = s.byteTransfers false (0x08 ||| c) ∧ evs.length = s.byteEvents

/-- R206 to R209, R214: the entry-mode toggles, as the display-control toggles. -/
def Obligations.EntryModeTogglesResult : Prop :=
  ∀ (s : State) (i : Instr) (m : Byte), s.BusReady →
    ((i = .autoscrollOn ∧ m = s.entryMode ||| 0x01) ∨ (i = .autoscrollOff ∧ m = s.entryMode &&& 0xFE) ∨
      (i = .leftToRight ∧ m = s.entryMode ||| 0x02) ∨ (i = .rightToLeft ∧ m = s.entryMode &&& 0xFD)) →
    ∃ evs : List Event,
      exec i s = .next { s with entryMode := m, trace := s.trace ++ evs, lines := s.linesAfter false (0x04 ||| m) s.lines,
                                result := none } ∧
      s.transfersFrom s.lines evs = s.byteTransfers false (0x04 ||| m) ∧ evs.length = s.byteEvents

/-- R210, R211: the scroll requests send 0x18 and 0x1C and keep no state. -/
def Obligations.ScrollResult : Prop :=
  ∀ (s : State) (i : Instr) (v : Byte), s.BusReady → ((i = .scrollLeft ∧ v = 0x18) ∨ (i = .scrollRight ∧ v = 0x1C)) →
    ∃ evs : List Event,
      exec i s = .next { s with trace := s.trace ++ evs, lines := s.linesAfter false v s.lines, result := none } ∧
      s.transfersFrom s.lines evs = s.byteTransfers false v

/-- R212, R213: CLEAR and HOME send one command, then wait `T_CLEAR` or `T_HOME` ms, and keep no state. -/
def Obligations.ClearHomeResult : Prop :=
  ∀ (s : State) (i : Instr) (v : Byte) (ms : Nat), s.BusReady →
    ((i = .clear ∧ v = 0x01 ∧ ms = s.cfg.tClear) ∨ (i = .home ∧ v = 0x02 ∧ ms = s.cfg.tHome)) →
    ∃ evs : List Event,
      exec i s = .next { s with trace := s.trace ++ evs ++ [.delayMs ms], lines := s.linesAfter false v s.lines,
                                result := none } ∧
      s.transfersFrom s.lines evs = s.byteTransfers false v ∧ evs.length = s.byteEvents

/-- R220 to R222: SET_CURSOR clamps the row to the last row and to the last slot, does not clamp the column, and delivers the
DDRAM address `(col + rowOffset[r]) mod 128`. -/
def Obligations.SetCursorResult : Prop :=
  ∀ (s : State) (col row : Byte) (r : Fin 4) (v : Byte), s.BusReady → 1 ≤ s.numRows →
    r.val = min row.toNat (min (s.numRows - 1) 3) → v.toNat = 128 + (col.toNat + s.rowOffset[r].toNat) % 128 →
    ∃ evs : List Event,
      exec (.setCursor col row) s =
        .next { s with trace := s.trace ++ evs, lines := s.linesAfter false v s.lines, result := none } ∧
      s.transfersFrom s.lines evs = s.byteTransfers false v ∧ evs.length = s.byteEvents

/-- R225: CREATE_CHAR sends the CGRAM address of the masked slot as a command, then the eight pattern bytes as data, and
returns no value. -/
def Obligations.CreateCharResult : Prop :=
  ∀ (s : State) (slot p0 p1 p2 p3 p4 p5 p6 p7 : Byte), s.BusReady →
    ∃ evs : List Event,
      exec (.createChar slot p0 p1 p2 p3 p4 p5 p6 p7) s =
        .next { s with trace := s.trace ++ evs, lines := s.linesAfter true p7 s.lines, result := none } ∧
      s.transfersFrom s.lines evs =
        s.byteTransfers false (BitVec.ofNat 8 (0x40 + 8 * (slot.toNat % 8))) ++
        [p0, p1, p2, p3, p4, p5, p6, p7].flatMap (s.byteTransfers true) ∧
      evs.length = 9 * s.byteEvents

/-- R226: slots `k` and `k + 8m` behave identically. -/
def Obligations.CreateCharMasksSlot : Prop :=
  ∀ (s : State) (slot slot' p0 p1 p2 p3 p4 p5 p6 p7 : Byte), s.Ready → slot.toNat % 8 = slot'.toNat % 8 →
    exec (.createChar slot p0 p1 p2 p3 p4 p5 p6 p7) s = exec (.createChar slot' p0 p1 p2 p3 p4 p5 p6 p7) s

/-- R228: each ON-then-OFF pair restores its register when the bits it touches were 0 before, and each OFF-then-ON pair when
they were 1 before. -/
def Obligations.PairedTogglesRestore : Prop :=
  ∀ (s : State) (i j : Instr), s.Ready →
    ((i = .displayOn ∧ j = .displayOff ∧ s.control &&& 0x04 = 0) ∨
      (i = .displayOff ∧ j = .displayOn ∧ s.control &&& 0x04 = 0x04) ∨
      (i = .cursorOn ∧ j = .cursorOff ∧ s.control &&& 0x03 = 0) ∨
      (i = .cursorOff ∧ j = .cursorOn ∧ s.control &&& 0x03 = 0x03) ∨
      (i = .autoscrollOn ∧ j = .autoscrollOff ∧ s.entryMode &&& 0x01 = 0) ∨
      (i = .autoscrollOff ∧ j = .autoscrollOn ∧ s.entryMode &&& 0x01 = 0x01) ∨
      (i = .leftToRight ∧ j = .rightToLeft ∧ s.entryMode &&& 0x02 = 0) ∨
      (i = .rightToLeft ∧ j = .leftToRight ∧ s.entryMode &&& 0x02 = 0x02)) →
    ∃ t u, exec i s = .next t ∧ exec j t = .next u ∧ u.control = s.control ∧ u.entryMode = s.entryMode

/-! ### The stream writer -/

/-- R240, R241, R243, R244: PRINT writes the text bytes before the first 0x00 in order, as data, and returns their number; an
empty text emits nothing and returns 0. -/
def Obligations.PrintResult : Prop :=
  ∀ (s : State) (n : Byte) (text : List Byte), s.BusReady → text.length = n.toNat →
    let kept := text.takeWhile (· ≠ 0x00)
    ∃ evs : List Event,
      exec (.print n text) s =
        .next { s with trace := s.trace ++ evs, result := some (BitVec.ofNat 8 kept.length),
                       lines := match kept.getLast? with
                         | none => s.lines
                         | some v => s.linesAfter true v s.lines } ∧
      s.transfersFrom s.lines evs = kept.flatMap (s.byteTransfers true) ∧ evs.length = kept.length * s.byteEvents ∧
      kept.length ≤ 255

/-- R112: the host-side PRINTF issues one PRINT of the formatted text, cut to at most `P_FMT_BUF - 1` bytes and not rejected,
and none when formatting fails. (That PRINT also holds at most 255 bytes is R96's
bound, and that `P_FMT_BUF` 0 bounds the text at 0 bytes is the model's choice: log entry 20.) -/
def Obligations.PrintfIssuesOnePrint : Prop :=
  ∀ (c : Config),
    (∀ text, ∃ n kept, expandPrintf c (some text) = some (.print n kept) ∧ (Instr.print n kept).wellFormed = true ∧
      kept <+: text ∧ kept.length ≤ c.fmtBuf - 1 ∧
      (text.length ≤ c.fmtBuf - 1 → text.length ≤ 255 → kept = text)) ∧
    expandPrintf c none = none

/-! ### Timing -/

/-- R185, R300: the sum of the delays of every request at default timings is the table's. -/
def Obligations.MinimumDurations : Prop :=
  ∀ (s : State) (i : Instr), s.seq = .idle → checkOf i s = none → (isBinding i = true ∨ (s.dataCount ≠ .zero ∧ s.ModeOk)) →
    s.cfg.DefaultTimings →
    ∃ t, exec i s = .next t ∧ minDuration (newEvents s t) = tableMs (s.dataCount = .eight) i

/-- R300, R58: at default timings, any schedule of the events an accepted request emits, in order, each to completion, each
delay taking at least its time, takes at least the table's duration. Schedules are the model's form of the backend contract (log
entry 16), and hold whole milliseconds (the model's choice, log entry 28). -/
def Obligations.SchedulesTakeAtLeastTheDelays : Prop :=
  ∀ (s t : State) (i : Instr) (times : List Nat) (first last : Nat), s.seq = .idle → checkOf i s = none →
    (isBinding i = true ∨ (s.dataCount ≠ .zero ∧ s.ModeOk)) → s.cfg.DefaultTimings → exec i s = .next t →
    respects (newEvents s t) times = true → times.head? = some first → times.getLast? = some last →
    first + tableMs (s.dataCount = .eight) i ≤ last

/-- R143, R290: whatever a request emits, every rising EN is held at least 1 ms, falls, and settles at least 1 ms. -/
def Obligations.EveryPulseIsTimed : Prop :=
  ∀ (s t : State) (i : Instr), s.cfg.Ok → exec i s = .next t → pulsesTimed (newEvents s t) = true

/-! ### Rules of the whole machine -/

/-- R142: no request emits an event on RS, RW or a data line while EN is high, and each leaves EN low. -/
def Obligations.BusQuietWhileEnableHigh : Prop :=
  ∀ (s t : State) (i : Instr), exec i s = .next t →
    quietWhileHigh false (newEvents s t) = true ∧ s.trace ++ newEvents s t = t.trace

/-- R153, R38: the engine never drives RW to 1, and emits nothing for RW when it is unwired. -/
def Obligations.RwOnlyDrivenLow : Prop :=
  ∀ (s t : State) (i : Instr), exec i s = .next t → rwQuiet s.wiredRW (newEvents s t)

/-- R42, R35: no request but a binding changes the pin map, `dataCount` or DL; no request at all changes a bit of the
configuration bytes that has no name; the parameters never change. -/
def Obligations.OnlyBindingsChangeThePinMap : Prop :=
  ∀ (s t : State) (i : Instr), exec i s = .next t →
    (isBinding i = false →
      t.pinRW = s.pinRW ∧ t.pinEN = s.pinEN ∧ t.pinRS = s.pinRS ∧ t.ctrlBound = s.ctrlBound ∧ t.data = s.data ∧
      t.dataCount = s.dataCount ∧ t.dl = s.dl) ∧
    t.function &&& 0xE3 = s.function &&& 0xE3 ∧ t.control &&& 0xF8 = s.control &&& 0xF8 ∧
    t.entryMode &&& 0xFC = s.entryMode &&& 0xFC ∧ t.cfg = s.cfg

/-- R46, R47, R50, R52: what a request does to the registers and the events it emits depend on no bus line, on no earlier
event, and not on the refusal mark, the record or the last result. -/
def Obligations.EngineNeverReadsBack : Prop :=
  ∀ (s u s' : State) (i : Instr), s.SameInputs u → exec i s = .next s' →
    ∃ u', exec i u = .next u' ∧ s'.SameInputs u' ∧ newEvents s s' = newEvents u u' ∧
      (s.seq = .idle → checkOf i s = none → u'.result = s'.result ∧ u'.refused = u.refused)

/-- R101: every command byte of R102 to R108 is of the class the table gives it, the reserved bits of the registers being 0. -/
def Obligations.EngineCommandsHaveTheirClass : Prop :=
  ∀ (s : State) (slot col row : Byte), s.ReservedOk →
    commandClass cmdClear = some .clearDisplay ∧ commandClass cmdHome = some .returnHome ∧
    commandClass (cmdEntryMode s.entryMode) = some .entryModeSet ∧
    commandClass (cmdControl s.control) = some .displayControl ∧
    commandClass (cmdShift true false) = some .shift ∧ commandClass (cmdShift true true) = some .shift ∧
    commandClass (cmdFunction s.function) = some .functionSet ∧
    commandClass (cmdSetCgram (maskSlot slot <<< 3)) = some .setCgram ∧
    commandClass (cmdSetDdram (s.cursorSum col row)) = some .setDdram

/-- R250, R302: every step answers a next state, so nothing traps (a refused request is a next state, log entry 1); and no
request runs on for ever: left alone, a running request is back at IDLE within the number of events left to it and one step more
(the count of steps is the model's granularity, log entry 3). -/
def Obligations.EveryStepCompletes : Prop :=
  (∀ s : State, ∃ t, step s = .next t) ∧
  ∀ (s : State) (req : Instr) (pos : Nat) (rest : List Micro), s.seq = .busy req pos rest → s.inputs = [] →
    ∃ n t, n ≤ (eventsOf rest).length + 1 ∧ Host.Core.run Sys2Proof.core n s = .next t ∧ t.seq = .idle

/-- R14, R83: a step only adds events at the end of the trace. -/
def Obligations.TraceOnlyGrows : Prop := ∀ (s t : State), step s = .next t → s.trace <+: t.trace

/-- R44, R280: nothing returns the engine to CONSTRUCTED. -/
def Obligations.NeverBackToConstructed : Prop :=
  ∀ (s t : State), s.Inv → step s = .next t → t.lifecycle = .constructed → s.lifecycle = .constructed

/-- R44: INITIALIZING holds only while a BEGIN runs, from its first event on; and a running BEGIN that has emitted an event is
INITIALIZING until it returns. -/
def Obligations.InitializingWhileBeginRuns : Prop :=
  ∀ s : State, s.Inv →
    (s.lifecycle = .initializing → ∃ cols rows font pos rest, s.seq = .busy (.begin cols rows font) pos rest ∧ 0 < pos) ∧
    (∀ cols rows font pos rest, s.seq = .busy (.begin cols rows font) pos rest → 0 < pos → s.lifecycle = .initializing)

/-- R45: each step of a running request on its own emits one event and the position grows by exactly 1, or emits nothing and
returns to IDLE. The growth by 1 with each event is R45's; that a step emits one event, and that the return is a step of its own,
are the model's granularity (log entry 3). -/
def Obligations.PositionGrowsByOneWithEachEvent : Prop :=
  ∀ (s t : State) (req : Instr) (pos : Nat) (rest : List Micro), s.seq = .busy req pos rest →
    (s.inputs = [] ∨ ∃ later, s.inputs = .wait :: later) → step s = .next t →
    (∃ e rest', t.seq = .busy req (pos + 1) rest' ∧ t.trace = s.trace ++ [e]) ∨ (t.seq = .idle ∧ t.trace = s.trace)

/-- R6, R45, R79, R258: a request the host does not wait for, left to run event by event, ends in the very state of the
request run at once. (One step accepts it, one emits each event, one returns: log entry 3.) -/
def Obligations.StepwiseRunEqualsAtomicRun : Prop :=
  ∀ (s : State) (i : Instr), i.wellFormed = true → s.seq = .idle → s.inputs = [] → checkOf i s = none →
    Host.Core.run Sys2Proof.core ((eventsOf (bodyOf i s)).length + 2) { s with inputs := [.post (encode i)] } = exec i s

/-- R30, R36, R38 to R42, R44, R52, R128, R141: the invariant holds at construction, for parameters that meet R9. -/
def Obligations.ConstructionMeetsTheInvariant : Prop := ∀ c : Config, c.Ok → (State.construct c).Inv

/-- The same rules: every step keeps the invariant, from every state that meets it, whatever the host does. -/
def Obligations.StepKeepsTheInvariant : Prop := ∀ (s t : State), s.Inv → step s = .next t → t.Inv

/-! ### Several instances -/

/-- R61, R270: a step of one instance leaves every register, the trace and the inputs of every other instance as they were. -/
def Obligations.InstancesAreIndependent : Prop :=
  ∀ (y z : System) (k j : Nat) (u : State), System.stepAt k y = .next z → j ≠ k → y.engines[j]? = some u →
    ∃ v, z.engines[j]? = some v ∧ v = { u with lines := v.lines }

/-- R271, R272: an instance's lines change only through events on the pins its own map resolves: an instance that shares no
pin with the events of a step of another is not touched at all, though they may share ports. -/
def Obligations.DisjointPinsAreUntouched : Prop :=
  ∀ (y z : System) (k j : Nat) (u s t : State), System.stepAt k y = .next z → j ≠ k → y.engines[j]? = some u →
    y.engines[k]? = some s → step s = .next t →
    (∀ e ∈ newEvents s t, ∀ r ∈ u.activeRoles,
      (∀ p q, e = .configureOutput p q → u.resolve r ≠ (p, q)) ∧
      (∀ x p q b, e = .setLevel x p q b → u.resolve r ≠ (p, q))) →
    z.engines[j]? = some u

/-- R272, R53: when one instance steps, the line of every role another instance resolves follows the step's events on that
role's pin, both `ConfigureOutput` and `SetLevel`, and its other lines keep their levels. That the others see every event of the
step, in order (log entry 15), and that a line follows only the events emitted while its role resolves to their pin (log
entry 27), are the model's choices. -/
def Obligations.ForeignEventsReachSharedPins : Prop :=
  ∀ (y z : System) (k j : Nat) (u s t : State), System.stepAt k y = .next z → j ≠ k → y.engines[j]? = some u →
    y.engines[k]? = some s → step s = .next t →
    ∃ v, z.engines[j]? = some v ∧
      (∀ r ∈ u.activeRoles, v.lines.get r = (newEvents s t).foldl (Level.onPin (u.resolve r)) (u.lines.get r)) ∧
      ∀ r, r ∉ u.activeRoles → v.lines.get r = u.lines.get r
end

