-- ==== Sys2Proof/Laws/State.lean ====
section
/-! SUPPORT. The small lemmas of the state's updates: what each one leaves in each field. -/

namespace Sys2Proof.Machine

variable (s : State)

section Write

@[simp] theorem State.write_numRows (n : Nat) : s.write (.numRows n) = { s with numRows := n } := rfl
@[simp] theorem State.write_rowOffset (t : Vector Byte 4) : s.write (.rowOffset t) = { s with rowOffset := t } := rfl
@[simp] theorem State.write_pins (rw en rs : Byte) :
    s.write (.pins rw en rs) = { s with pinRW := rw, pinEN := en, pinRS := rs } := rfl
@[simp] theorem State.write_ctrlBound : s.write .ctrlBound = { s with ctrlBound := true } := rfl
@[simp] theorem State.write_data (v : Vector Byte 8) : s.write (.data v) = { s with data := v } := rfl
@[simp] theorem State.write_dataCount (c : DataCount) : s.write (.dataCount c) = { s with dataCount := c } := rfl
@[simp] theorem State.write_lifecycle (l : Lifecycle) : s.write (.lifecycle l) = { s with lifecycle := l } := rfl
@[simp] theorem State.write_result (r : Option Byte) : s.write (.result r) = { s with result := r } := rfl
@[simp] theorem State.write_set_function (m : Byte) :
    s.write (.set .function m) = { s with function := s.function ||| m } := rfl
@[simp] theorem State.write_set_control (m : Byte) :
    s.write (.set .control m) = { s with control := s.control ||| m } := rfl
@[simp] theorem State.write_set_entryMode (m : Byte) :
    s.write (.set .entryMode m) = { s with entryMode := s.entryMode ||| m } := rfl
@[simp] theorem State.write_clr_function (m : Byte) :
    s.write (.clr .function m) = { s with function := s.function &&& ~~~m } := rfl
@[simp] theorem State.write_clr_control (m : Byte) :
    s.write (.clr .control m) = { s with control := s.control &&& ~~~m } := rfl
@[simp] theorem State.write_clr_entryMode (m : Byte) :
    s.write (.clr .entryMode m) = { s with entryMode := s.entryMode &&& ~~~m } := rfl

variable (w : RegWrite)

@[simp] theorem State.write_seq : (s.write w).seq = s.seq := by
  cases w with | set r _ => cases r <;> rfl | clr r _ => cases r <;> rfl | _ => rfl
@[simp] theorem State.write_refused : (s.write w).refused = s.refused := by
  cases w with | set r _ => cases r <;> rfl | clr r _ => cases r <;> rfl | _ => rfl
@[simp] theorem State.write_lastRefusal : (s.write w).lastRefusal = s.lastRefusal := by
  cases w with | set r _ => cases r <;> rfl | clr r _ => cases r <;> rfl | _ => rfl
@[simp] theorem State.write_lines : (s.write w).lines = s.lines := by
  cases w with | set r _ => cases r <;> rfl | clr r _ => cases r <;> rfl | _ => rfl
@[simp] theorem State.write_trace : (s.write w).trace = s.trace := by
  cases w with | set r _ => cases r <;> rfl | clr r _ => cases r <;> rfl | _ => rfl
@[simp] theorem State.write_cfg : (s.write w).cfg = s.cfg := by
  cases w with | set r _ => cases r <;> rfl | clr r _ => cases r <;> rfl | _ => rfl
@[simp] theorem State.write_inputs : (s.write w).inputs = s.inputs := by
  cases w with | set r _ => cases r <;> rfl | clr r _ => cases r <;> rfl | _ => rfl

end Write

section Emit

variable (e : Event)

@[simp] theorem State.emit_function : (s.emit e).function = s.function := rfl
@[simp] theorem State.emit_control : (s.emit e).control = s.control := rfl
@[simp] theorem State.emit_entryMode : (s.emit e).entryMode = s.entryMode := rfl
@[simp] theorem State.emit_numRows : (s.emit e).numRows = s.numRows := rfl
@[simp] theorem State.emit_rowOffset : (s.emit e).rowOffset = s.rowOffset := rfl
@[simp] theorem State.emit_pinRW : (s.emit e).pinRW = s.pinRW := rfl
@[simp] theorem State.emit_pinEN : (s.emit e).pinEN = s.pinEN := rfl
@[simp] theorem State.emit_pinRS : (s.emit e).pinRS = s.pinRS := rfl
@[simp] theorem State.emit_ctrlBound : (s.emit e).ctrlBound = s.ctrlBound := rfl
@[simp] theorem State.emit_data : (s.emit e).data = s.data := rfl
@[simp] theorem State.emit_dataCount : (s.emit e).dataCount = s.dataCount := rfl
@[simp] theorem State.emit_lifecycle : (s.emit e).lifecycle = s.lifecycle := rfl
@[simp] theorem State.emit_seq : (s.emit e).seq = s.seq := rfl
@[simp] theorem State.emit_refused : (s.emit e).refused = s.refused := rfl
@[simp] theorem State.emit_lastRefusal : (s.emit e).lastRefusal = s.lastRefusal := rfl
@[simp] theorem State.emit_result : (s.emit e).result = s.result := rfl
@[simp] theorem State.emit_lines : (s.emit e).lines = s.lineStep s.lines e := rfl
@[simp] theorem State.emit_trace : (s.emit e).trace = s.trace ++ [e] := rfl
@[simp] theorem State.emit_cfg : (s.emit e).cfg = s.cfg := rfl
@[simp] theorem State.emit_inputs : (s.emit e).inputs = s.inputs := rfl

end Emit

section Refuse

variable (r : Reason) (bytes : List Byte)

@[simp] theorem State.refuse_function : (s.refuse r bytes).function = s.function := rfl
@[simp] theorem State.refuse_control : (s.refuse r bytes).control = s.control := rfl
@[simp] theorem State.refuse_entryMode : (s.refuse r bytes).entryMode = s.entryMode := rfl
@[simp] theorem State.refuse_numRows : (s.refuse r bytes).numRows = s.numRows := rfl
@[simp] theorem State.refuse_rowOffset : (s.refuse r bytes).rowOffset = s.rowOffset := rfl
@[simp] theorem State.refuse_pinRW : (s.refuse r bytes).pinRW = s.pinRW := rfl
@[simp] theorem State.refuse_pinEN : (s.refuse r bytes).pinEN = s.pinEN := rfl
@[simp] theorem State.refuse_pinRS : (s.refuse r bytes).pinRS = s.pinRS := rfl
@[simp] theorem State.refuse_ctrlBound : (s.refuse r bytes).ctrlBound = s.ctrlBound := rfl
@[simp] theorem State.refuse_data : (s.refuse r bytes).data = s.data := rfl
@[simp] theorem State.refuse_dataCount : (s.refuse r bytes).dataCount = s.dataCount := rfl
@[simp] theorem State.refuse_lifecycle : (s.refuse r bytes).lifecycle = s.lifecycle := rfl
@[simp] theorem State.refuse_seq : (s.refuse r bytes).seq = s.seq := rfl
@[simp] theorem State.refuse_refused : (s.refuse r bytes).refused = true := rfl
@[simp] theorem State.refuse_lastRefusal : (s.refuse r bytes).lastRefusal = some (r, bytes) := rfl
@[simp] theorem State.refuse_result : (s.refuse r bytes).result = s.result := rfl
@[simp] theorem State.refuse_lines : (s.refuse r bytes).lines = s.lines := rfl
@[simp] theorem State.refuse_trace : (s.refuse r bytes).trace = s.trace := rfl
@[simp] theorem State.refuse_cfg : (s.refuse r bytes).cfg = s.cfg := rfl
@[simp] theorem State.refuse_inputs : (s.refuse r bytes).inputs = s.inputs := rfl

end Refuse

section Lines

variable (ls : Lines) (l : Level)

@[simp] theorem Lines.get_put_same (r : Role) : (ls.put l r).get r = l := by
  cases r with
  | d i => simp [Lines.get, Lines.put]
  | _ => rfl

/-- Driving or configuring one line leaves every other line alone (R52). -/
theorem Lines.get_put_of_ne {r r' : Role} (h : r' ≠ r) : (ls.put l r).get r' = ls.get r' := by
  cases r <;> cases r' <;> try rfl
  · exact absurd rfl h
  · exact absurd rfl h
  · exact absurd rfl h
  · rename_i i j
    have hij : (i : Nat) ≠ j := fun e => h (by rw [Fin.ext e])
    simp [Lines.get, Lines.put, hij]

/-- Two sets of levels are the same when every role's level is. -/
theorem Lines.ext_get {a b : Lines} (h : ∀ r, a.get r = b.get r) : a = b := by
  obtain ⟨ars, arw, aen, ad⟩ := a
  obtain ⟨brs, brw, ben, bd⟩ := b
  have hd : ad = bd := Vector.ext fun i hi => h (.d ⟨i, hi⟩)
  simp [show ars = brs from h .rs, show arw = brw from h .rw, show aen = ben from h .en, hd]

end Lines

end Sys2Proof.Machine
end

