-- ==== Sys2Proof/Laws/Instances.lean ====
section
/-! SUPPORT. What a step of one instance does to another's lines, said once: a fold over the wired roles, role by role. -/

namespace Sys2Proof.Machine

/-- A fold that changes the level of every listed role `c` picks by `f` (`f` of `f` being `f`), read at one role. -/
theorem foldRoles_get (c : Role → Prop) [DecidablePred c] (f : Level → Level) (hf : ∀ l, f (f l) = f l) (rs : List Role)
    (ls : Lines) (r : Role) :
    (rs.foldl (fun acc q => if c q then acc.put (f (acc.get q)) q else acc) ls).get r =
      if r ∈ rs ∧ c r then f (ls.get r) else ls.get r := by
  induction rs generalizing ls with
  | nil => simp
  | cons q rs ih =>
    rw [List.foldl_cons, ih]
    by_cases hq : c q
    · by_cases hrq : r = q
      · subst hrq
        by_cases hm : r ∈ rs <;> simp [hq, hf, hm]
      · simp [hq, hrq, Lines.get_put_of_ne _ _ hrq]
    · by_cases hrq : r = q
      · subst hrq
        simp [hq]
      · simp [hq, hrq]

/-- One foreign event, read at one role (R272): a wired role's line follows its pin, any other line stays. -/
theorem foreignStep_get (s : State) (ls : Lines) (e : Event) (r : Role) :
    (s.foreignStep ls e).get r = if r ∈ s.activeRoles then (ls.get r).onPin (s.resolve r) e else ls.get r := by
  cases e with
  | enableClock p => simp [State.foreignStep, Level.onPin]
  | delayMs n => simp [State.foreignStep, Level.onPin]
  | configureOutput p q =>
    have h := foldRoles_get (fun r => s.resolve r = (p, q)) Level.configured (by intro l; cases l <;> rfl) s.activeRoles ls r
    refine h.trans ?_
    by_cases hr : r ∈ s.activeRoles <;> by_cases hp : s.resolve r = (p, q) <;> simp [hr, hp, Level.onPin]
    cases ls.get r <;> simp [Level.configured]
  | setLevel x p q b =>
    have h := foldRoles_get (fun r => s.resolve r = (p, q)) (fun _ => .driven b) (fun _ => rfl) s.activeRoles ls r
    refine h.trans ?_
    by_cases hr : r ∈ s.activeRoles <;> by_cases hp : s.resolve r = (p, q) <;> simp [hr, hp, Level.onPin]

/-- The lines of an instance that has observed another's events, role by role (R272). -/
theorem observe_lines_get (s : State) (es : List Event) (r : Role) :
    (s.observe es).lines.get r =
      if r ∈ s.activeRoles then es.foldl (Level.onPin (s.resolve r)) (s.lines.get r) else s.lines.get r := by
  have h : ∀ ls : Lines, (es.foldl s.foreignStep ls).get r =
      if r ∈ s.activeRoles then es.foldl (Level.onPin (s.resolve r)) (ls.get r) else ls.get r := by
    induction es with
    | nil => simp
    | cons e es ih =>
      intro ls
      rw [List.foldl_cons, ih, foreignStep_get]
      by_cases hr : r ∈ s.activeRoles <;> simp [hr]
  exact h s.lines

/-- The members of the list but the one that stepped have observed its events; that one is replaced. -/
theorem replaceAt_getElem? (t : State) (es : List Event) (k n j : Nat) (us : List State) :
    (replaceAt t es k n us)[j]? = us[j]?.map fun u => if n + j = k then t else u.observe es := by
  induction us generalizing n j with
  | nil => simp [replaceAt]
  | cons u us ih =>
    cases j with
    | zero => simp [replaceAt]
    | succ j => simp [replaceAt, ih, Nat.add_assoc, Nat.add_comm 1 j]

end Sys2Proof.Machine
end

