-- ==== Sys2Proof/Laws/Ops.lean ====
section
/-! SUPPORT. One lemma per shared operation, cited instead of unfolding it: running an expansion, the events of an expansion,
replaying events on the lines, transfers, and how `exec` runs a request. -/

namespace Sys2Proof.Machine

/-! ### Expansions -/

@[simp] theorem eventsOf_nil : eventsOf [] = [] := rfl
@[simp] theorem eventsOf_cons_write (w : RegWrite) (ms : List Micro) : eventsOf (.write w :: ms) = eventsOf ms := rfl
@[simp] theorem eventsOf_cons_emit (e : Event) (ms : List Micro) : eventsOf (.emit e :: ms) = e :: eventsOf ms := rfl
@[simp] theorem eventsOf_append (a b : List Micro) : eventsOf (a ++ b) = eventsOf a ++ eventsOf b := by
  simp [eventsOf]
@[simp] theorem eventsOf_writes (ws : List RegWrite) : eventsOf (writes ws) = [] := by
  induction ws with
  | nil => rfl
  | cons w ws ih => simpa [writes] using ih
@[simp] theorem eventsOf_emits (es : List Event) : eventsOf (emits es) = es := by
  induction es with
  | nil => rfl
  | cons e es ih => simpa [emits] using ih
@[simp] theorem eventsOf_ret (v : Option Byte) : eventsOf (ret v) = [] := rfl

variable (s : State)

@[simp] theorem State.run_nil : s.run [] = s := rfl
@[simp] theorem State.run_cons_write (w : RegWrite) (ms : List Micro) : s.run (.write w :: ms) = (s.write w).run ms := rfl
@[simp] theorem State.run_cons_emit (e : Event) (ms : List Micro) : s.run (.emit e :: ms) = (s.emit e).run ms := rfl
@[simp] theorem State.run_append (a b : List Micro) : s.run (a ++ b) = (s.run a).run b := by
  simp [State.run]
@[simp] theorem State.run_writes (ws : List RegWrite) : s.run (writes ws) = s.writeAll ws := by
  induction ws generalizing s with
  | nil => rfl
  | cons w ws ih => exact ih (s.write w)
@[simp] theorem State.run_ret (v : Option Byte) : s.run (ret v) = { s with result := v } := rfl
@[simp] theorem State.writeAll_nil : s.writeAll [] = s := rfl
@[simp] theorem State.writeAll_cons (w : RegWrite) (ws : List RegWrite) : s.writeAll (w :: ws) = (s.write w).writeAll ws := rfl
@[simp] theorem State.writeAll_append (a b : List RegWrite) : s.writeAll (a ++ b) = (s.writeAll a).writeAll b := by
  simp [State.writeAll]

/-- A field that neither a write nor an event changes is unchanged by a run. -/
theorem State.run_field {α : Type} (f : State → α) (hw : ∀ t w, f (State.write t w) = f t)
    (he : ∀ t e, f (State.emit t e) = f t) (ms : List Micro) : f (s.run ms) = f s := by
  induction ms generalizing s with
  | nil => rfl
  | cons m ms ih =>
    cases m with
    | write w => rw [State.run_cons_write, ih, hw]
    | emit e => rw [State.run_cons_emit, ih, he]

@[simp] theorem State.run_seq (ms : List Micro) : (s.run ms).seq = s.seq := s.run_field _ (by simp) (by simp) ms
@[simp] theorem State.run_cfg (ms : List Micro) : (s.run ms).cfg = s.cfg := s.run_field _ (by simp) (by simp) ms
@[simp] theorem State.run_inputs (ms : List Micro) : (s.run ms).inputs = s.inputs := s.run_field _ (by simp) (by simp) ms
@[simp] theorem State.run_refused (ms : List Micro) : (s.run ms).refused = s.refused := s.run_field _ (by simp) (by simp) ms
@[simp] theorem State.run_lastRefusal (ms : List Micro) : (s.run ms).lastRefusal = s.lastRefusal :=
  s.run_field _ (by simp) (by simp) ms

/-- A run adds the expansion's events to the trace, in order (R14, R83). -/
@[simp] theorem State.run_trace (ms : List Micro) : (s.run ms).trace = s.trace ++ eventsOf ms := by
  induction ms generalizing s with
  | nil => simp
  | cons m ms ih => cases m <;> simp [ih]

/-! ### The pin map and the lines -/

/-- Two states with the same pin map and parameters: all that resolving a role reads (R59). -/
structure State.SameMap (s t : State) : Prop where
  pinRW : s.pinRW = t.pinRW
  pinEN : s.pinEN = t.pinEN
  pinRS : s.pinRS = t.pinRS
  data : s.data = t.data
  dataCount : s.dataCount = t.dataCount
  cfg : s.cfg = t.cfg

theorem State.SameMap.refl (s : State) : s.SameMap s := ⟨rfl, rfl, rfl, rfl, rfl, rfl⟩

theorem State.SameMap.wiredRW {s t : State} (h : s.SameMap t) : s.wiredRW = t.wiredRW := by
  simp [State.wiredRW, h.pinRW]

theorem State.SameMap.dataLines {s t : State} (h : s.SameMap t) : s.dataLines = t.dataLines := by
  simp [State.dataLines, h.dataCount]

theorem State.SameMap.resolve {s t : State} (h : s.SameMap t) : s.resolve = t.resolve := by
  funext r
  cases r <;> simp [State.resolve, h.pinRW, h.pinEN, h.pinRS, h.data, h.cfg]

theorem State.SameMap.activeRoles {s t : State} (h : s.SameMap t) : s.activeRoles = t.activeRoles := by
  simp [State.activeRoles, h.wiredRW, h.dataLines]

theorem State.SameMap.aliasFree {s t : State} (h : s.SameMap t) : s.aliasFree = t.aliasFree := by
  simp [State.aliasFree, h.activeRoles, h.resolve]

theorem State.SameMap.clockPorts {s t : State} (h : s.SameMap t) : s.clockPorts = t.clockPorts := by
  simp [State.clockPorts, h.wiredRW, h.cfg]

theorem State.SameMap.lineStep {s t : State} (h : s.SameMap t) : s.lineStep = t.lineStep := by
  funext ls e
  cases e <;> simp [State.lineStep, h.activeRoles, h.resolve]

theorem State.SameMap.replay {s t : State} (h : s.SameMap t) : s.replay = t.replay := by
  funext ls es
  simp [State.replay, h.lineStep]

theorem State.SameMap.snapshot {s t : State} (h : s.SameMap t) : s.snapshot = t.snapshot := by
  funext ls
  simp [State.snapshot, h.wiredRW, h.dataLines]

theorem State.SameMap.transfersFrom {s t : State} (h : s.SameMap t) : s.transfersFrom = t.transfersFrom := by
  funext ls es
  induction es generalizing ls with
  | nil => rfl
  | cons e es ih => simp [State.transfersFrom, h.snapshot, h.lineStep, ih]

@[simp] theorem State.replay_nil (ls : Lines) : s.replay ls [] = ls := rfl
@[simp] theorem State.replay_cons (ls : Lines) (e : Event) (es : List Event) :
    s.replay ls (e :: es) = s.replay (s.lineStep ls e) es := rfl
@[simp] theorem State.replay_append (ls : Lines) (a b : List Event) :
    s.replay ls (a ++ b) = s.replay (s.replay ls a) b := by
  simp [State.replay]

@[simp] theorem State.transfersFrom_nil (ls : Lines) : s.transfersFrom ls [] = [] := rfl
theorem State.transfersFrom_append (ls : Lines) (a b : List Event) :
    s.transfersFrom ls (a ++ b) = s.transfersFrom ls a ++ s.transfersFrom (s.replay ls a) b := by
  induction a generalizing ls with
  | nil => rfl
  | cons e a ih => simp [State.transfersFrom, ih]

/-- Running a list of events: they join the trace, the lines follow them, and no register changes. -/
theorem State.run_emits (es : List Event) :
    s.run (emits es) = { s with trace := s.trace ++ es, lines := s.replay s.lines es } := by
  induction es generalizing s with
  | nil => simp [emits]
  | cons e es ih =>
    have h : (s.emit e).SameMap s := ⟨rfl, rfl, rfl, rfl, rfl, rfl⟩
    have := ih (s.emit e)
    simp only [emits, List.map_cons, State.run_cons_emit] at this ⊢
    rw [this, h.replay]
    simp [State.emit]

/-! ### Requests -/

/-- `exec` runs the request's checks and expansion (R252, R45). -/
theorem exec_eq_perform (i : Instr) : exec i s = perform i (checkOf i s) (bodyOf i s) s := by
  cases i <;> rfl

theorem exec_busy {req : Instr} {pos : Nat} {rest : List Micro} (i : Instr) (h : s.seq = .busy req pos rest) :
    exec i s = .next (s.refuse .busy (encode i)) := by
  simp [exec_eq_perform, perform, h]

theorem exec_refused {r : Reason} (i : Instr) (h : s.seq = .idle) (hc : checkOf i s = some r) :
    exec i s = .next (s.refuse r (encode i)) := by
  simp [exec_eq_perform, perform, h, hc]

theorem exec_accepted (i : Instr) (h : s.seq = .idle) (hc : checkOf i s = none) :
    exec i s = .next (s.run (bodyOf i s)) := by
  simp [exec_eq_perform, perform, h, hc]

/-- What `exec` can answer: a next state, in which the request was refused or has run its body (R251, R6). -/
theorem exec_cases {t : State} {i : Instr} (h : exec i s = .next t) :
    (∃ r, t = s.refuse r (encode i)) ∨ (s.seq = .idle ∧ checkOf i s = none ∧ t = s.run (bodyOf i s)) := by
  cases hs : s.seq with
  | busy req pos rest =>
    rw [exec_busy s i hs] at h
    exact .inl ⟨_, (Host.Outcome.next.inj h).symm⟩
  | idle =>
    cases hc : checkOf i s with
    | some r =>
      rw [exec_refused s i hs hc] at h
      exact .inl ⟨_, (Host.Outcome.next.inj h).symm⟩
    | none =>
      rw [exec_accepted s i hs hc] at h
      exact .inr ⟨rfl, rfl, (Host.Outcome.next.inj h).symm⟩

end Sys2Proof.Machine
end

