-- ==== Sys2Proof/Laws/PerInstr.lean ====
section
/-! SUPPORT. One statement about every request as syntax, one lemma per constructor: its encoding has the shape its format
gives it. -/

namespace Sys2Proof.Laws.EncodingShape

open Sys2Proof

/-- A request's bytes start with its opcode, and their number is what its format and byte 1 give (R90, R91, R93). -/
def Statement (i : Instr) : Prop :=
  i.wellFormed = true → (encode i).head? = some i.opcode ∧ (encode i).length = i.format.length (i.operands.headD 0)

theorem bindCtrl (a b c : Byte) : Statement (.bindCtrl a b c) := fun _ => ⟨rfl, rfl⟩
theorem bindData4 (a b c d : Byte) : Statement (.bindData4 a b c d) := fun _ => ⟨rfl, rfl⟩
theorem bindData8 (a b c d e f g h : Byte) : Statement (.bindData8 a b c d e f g h) := fun _ => ⟨rfl, rfl⟩
theorem begin (a b c : Byte) : Statement (.begin a b c) := fun _ => ⟨rfl, rfl⟩
theorem pulseEnable : Statement .pulseEnable := fun _ => ⟨rfl, rfl⟩
theorem write4bits (a : Byte) : Statement (.write4bits a) := fun _ => ⟨rfl, rfl⟩
theorem write8bits (a : Byte) : Statement (.write8bits a) := fun _ => ⟨rfl, rfl⟩
theorem send (a b : Byte) : Statement (.send a b) := fun _ => ⟨rfl, rfl⟩
theorem command (a : Byte) : Statement (.command a) := fun _ => ⟨rfl, rfl⟩
theorem write (a : Byte) : Statement (.write a) := fun _ => ⟨rfl, rfl⟩
theorem displayOn : Statement .displayOn := fun _ => ⟨rfl, rfl⟩
theorem displayOff : Statement .displayOff := fun _ => ⟨rfl, rfl⟩
theorem cursorOn : Statement .cursorOn := fun _ => ⟨rfl, rfl⟩
theorem cursorOff : Statement .cursorOff := fun _ => ⟨rfl, rfl⟩
theorem autoscrollOn : Statement .autoscrollOn := fun _ => ⟨rfl, rfl⟩
theorem autoscrollOff : Statement .autoscrollOff := fun _ => ⟨rfl, rfl⟩
theorem leftToRight : Statement .leftToRight := fun _ => ⟨rfl, rfl⟩
theorem rightToLeft : Statement .rightToLeft := fun _ => ⟨rfl, rfl⟩
theorem scrollLeft : Statement .scrollLeft := fun _ => ⟨rfl, rfl⟩
theorem scrollRight : Statement .scrollRight := fun _ => ⟨rfl, rfl⟩
theorem clear : Statement .clear := fun _ => ⟨rfl, rfl⟩
theorem home : Statement .home := fun _ => ⟨rfl, rfl⟩
theorem setCursor (a b : Byte) : Statement (.setCursor a b) := fun _ => ⟨rfl, rfl⟩
theorem createChar (a b c d e f g h i : Byte) : Statement (.createChar a b c d e f g h i) := fun _ => ⟨rfl, rfl⟩

/-- PRINT's length byte counts its text (R96). -/
theorem print (n : Byte) (text : List Byte) : Statement (.print n text) := by
  intro h
  have hl : text.length = n.toNat := by simpa [Instr.wellFormed] using h
  refine ⟨rfl, ?_⟩
  simp only [encode, Instr.operands, Instr.format, Format.length, List.length_cons, List.headD_cons]
  omega

end Sys2Proof.Laws.EncodingShape
end

