-- ==== Sys2Proof/Laws/Transmission.lean ====
section
/-! SUPPORT. What the sub-procedures of transmission put on the bus: the lines they leave and the transfers they make. -/

namespace Sys2Proof.Machine

variable (s : State) (ls : Lines)

@[simp] theorem lineStep_setLevel (r : Role) (b : Bool) : s.lineStep ls (s.setLevel r b) = ls.put (.driven b) r := rfl
@[simp] theorem lineStep_delayMs (n : Nat) : s.lineStep ls (.delayMs n) = ls := rfl
@[simp] theorem lineStep_enableClock (p : Port) : s.lineStep ls (.enableClock p) = ls := rfl

/-- The lines after data lines are driven to the bits of a byte. -/
def driven (ls : Lines) (ix : List (Fin 8)) (v : Byte) : Lines :=
  ix.foldl (fun acc (i : Fin 8) => acc.put (.driven (v.getLsbD i)) (.d i)) ls

theorem replay_driveLines (ix : List (Fin 8)) (v : Byte) : s.replay ls (driveLines s ix v) = driven ls ix v := by
  induction ix generalizing ls with
  | nil => rfl
  | cons i ix ih => exact ih _

theorem transfersFrom_driveLines (ix : List (Fin 8)) (v : Byte) : s.transfersFrom ls (driveLines s ix v) = [] := by
  induction ix generalizing ls with
  | nil => rfl
  | cons i ix ih => simpa [driveLines, State.transfersFrom, State.setLevel, Event.raisesEN] using ih _

/-- A pulse leaves EN at 0 and every other line as it was (R141). -/
theorem replay_pulseEnable : s.replay ls (pulseEnable s) = { ls with en := .driven false } := by
  simp [pulseEnable, Lines.put]

/-- A pulse makes one transfer, the snapshot of the lines (R142). -/
theorem transfersFrom_pulseEnable : s.transfersFrom ls (pulseEnable s) = [s.snapshot ls] := by
  simp [pulseEnable, State.transfersFrom, State.setLevel, Event.raisesEN, State.lineStep, Lines.put, State.snapshot]

theorem driven_get_d (ix : List (Fin 8)) (v : Byte) (i : Fin 8) :
    (driven ls ix v).get (.d i) = if i ∈ ix then .driven (v.getLsbD i) else ls.get (.d i) := by
  induction ix generalizing ls with
  | nil => simp [driven]
  | cons j ix ih =>
    have := ih (ls.put (.driven (v.getLsbD j)) (.d j))
    simp only [driven, List.foldl_cons] at this ⊢
    rw [this]
    by_cases hi : i ∈ ix
    · simp [hi]
    · by_cases hij : i = j
      · subst hij
        simp [hi]
      · simp [hi, hij, Lines.get_put_of_ne (r := .d j) (r' := .d i) ls _ (by simpa using hij)]

theorem driven_get_of_ne (ix : List (Fin 8)) (v : Byte) {r : Role} (h : ∀ i, r ≠ .d i) :
    (driven ls ix v).get r = ls.get r := by
  induction ix generalizing ls with
  | nil => rfl
  | cons j ix ih =>
    have := ih (ls.put (.driven (v.getLsbD j)) (.d j))
    simp only [driven, List.foldl_cons] at this ⊢
    rw [this, Lines.get_put_of_ne _ _ (h j)]

theorem mem_lowLines (i : Fin 8) : i ∈ lowLines ↔ i.val < 4 := by
  revert i
  decide

theorem mem_allLines (i : Fin 8) : i ∈ allLines := by
  revert i
  decide

/-- The lines after D0..D3 are driven (R145). -/
theorem driven_lowLines (v : Byte) :
    driven ls lowLines v =
      { ls with d := Vector.ofFn fun i => if i.val < 4 then .driven (v.getLsbD i) else ls.d[i] } := by
  refine Lines.ext_get fun r => ?_
  cases r with
  | d i => rw [driven_get_d]; simp [mem_lowLines, Lines.get]
  | _ => rw [driven_get_of_ne _ _ _ (by simp)]; rfl

/-- The lines after D0..D7 are driven (R150). -/
theorem driven_allLines (v : Byte) :
    driven ls allLines v = { ls with d := Vector.ofFn fun i => .driven (v.getLsbD i) } := by
  refine Lines.ext_get fun r => ?_
  cases r with
  | d i => rw [driven_get_d]; simp [mem_allLines, Lines.get]
  | _ => rw [driven_get_of_ne _ _ _ (by simp)]; rfl

theorem replay_write4bits (v : Byte) :
    s.replay ls (write4bits s v) =
      { ls with en := .driven false, d := Vector.ofFn fun i => if i.val < 4 then .driven (v.getLsbD i) else ls.d[i] } := by
  simp [write4bits, replay_driveLines, replay_pulseEnable, driven_lowLines]

theorem replay_write8bits (v : Byte) :
    s.replay ls (write8bits s v) = { ls with en := .driven false, d := Vector.ofFn fun i => .driven (v.getLsbD i) } := by
  simp [write8bits, replay_driveLines, replay_pulseEnable, driven_allLines]

theorem transfersFrom_write4bits (v : Byte) :
    s.transfersFrom ls (write4bits s v) =
      [s.snapshot { ls with d := Vector.ofFn fun i => if i.val < 4 then .driven (v.getLsbD i) else ls.d[i] }] := by
  simp [write4bits, State.transfersFrom_append, transfersFrom_driveLines, replay_driveLines, transfersFrom_pulseEnable,
    driven_lowLines]

theorem transfersFrom_write8bits (v : Byte) :
    s.transfersFrom ls (write8bits s v) = [s.snapshot { ls with d := Vector.ofFn fun i => .driven (v.getLsbD i) }] := by
  simp [write8bits, State.transfersFrom_append, transfersFrom_driveLines, replay_driveLines, transfersFrom_pulseEnable,
    driven_allLines]

/-- A whole byte is on the lines after `send` (R152). -/
theorem replay_send (v : Byte) (rs : Bool) (h0 : s.dataCount ≠ .zero) (hm : s.ModeOk) :
    s.replay ls (send s v rs) = s.linesAfter rs v ls := by
  refine Lines.ext_get fun r => ?_
  cases hc : s.dataCount with
  | zero => exact absurd hc h0
  | four =>
    have hdl := hm.1 hc
    cases hw : s.wiredRW <;> cases r with
    | d i =>
      fin_cases i <;>
        simp [send, hdl, hw, replay_write4bits, State.linesAfter, hc, DataCount.count, Lines.put, Lines.get]
    | _ => simp [send, hdl, hw, replay_write4bits, State.linesAfter, Lines.put, Lines.get]
  | eight =>
    have hdl := hm.2 hc
    cases hw : s.wiredRW <;> cases r with
    | d i =>
      fin_cases i <;>
        simp [send, hdl, hw, replay_write8bits, State.linesAfter, hc, DataCount.count, Lines.put, Lines.get]
    | _ => simp [send, hdl, hw, replay_write8bits, State.linesAfter, Lines.put, Lines.get]

/-- The transfers of `send` are the byte's (R154), whatever the lines were before. -/
theorem transfersFrom_send (v : Byte) (rs : Bool) (h0 : s.dataCount ≠ .zero) (hm : s.ModeOk) :
    s.transfersFrom ls (send s v rs) = s.byteTransfers rs v := by
  cases hc : s.dataCount with
  | zero => exact absurd hc h0
  | four =>
    have hdl := hm.1 hc
    cases hw : s.wiredRW <;>
      simp [send, hdl, hw, State.transfersFrom, State.transfersFrom_append, State.setLevel, Event.raisesEN, State.lineStep,
        transfersFrom_write4bits, replay_write4bits, State.byteTransfers, hc, State.snapshot, State.transferOf, Lines.put,
        State.dataLines, DataCount.count, allLines, bitLevels, highNibble]
  | eight =>
    have hdl := hm.2 hc
    cases hw : s.wiredRW <;>
      simp [send, hdl, hw, State.transfersFrom, State.setLevel, Event.raisesEN, State.lineStep,
        transfersFrom_write8bits, State.byteTransfers, hc, State.snapshot, State.transferOf, Lines.put, State.dataLines,
        DataCount.count, allLines, bitLevels]

/-- The number of events of `send` (R154). -/
theorem length_send (v : Byte) (rs : Bool) (h0 : s.dataCount ≠ .zero) (hm : s.ModeOk) :
    (send s v rs).length = s.byteEvents := by
  cases hc : s.dataCount with
  | zero => exact absurd hc h0
  | four =>
    have hdl := hm.1 hc
    cases hw : s.wiredRW <;>
      simp [send, hdl, hw, write4bits, driveLines, lowLines, pulseEnable, State.byteEvents, hc, State.wiredCount]
  | eight =>
    have hdl := hm.2 hc
    cases hw : s.wiredRW <;>
      simp [send, hdl, hw, write8bits, driveLines, allLines, pulseEnable, State.byteEvents, hc, State.wiredCount]

end Sys2Proof.Machine
end

