-- ==== Sys2Proof/Laws/Requests.lean ====
section
/-! SUPPORT. The shared parts of the request bodies, each said once: the bus-request check, sending a byte and returning, the
feature toggles, a sequence of data bytes, and PRINT's loop. -/

namespace Sys2Proof.Machine

variable (s : State)

/-- A bus request passes its check after a BEGIN (R140). -/
theorem checkBus_ready (h : s.lifecycle = .ready) : checkBus s = none := by
  simp [checkBus, firstReason, State.notBegun, h]

/-- A bus request is refused before a BEGIN has completed (R140). -/
theorem checkBus_notReady (h : s.lifecycle ≠ .ready) : checkBus s = some .notBegun := by
  simp [checkBus, firstReason, State.notBegun, h]

/-- The events of `send` depend on the pin map, the parameters and DL only. -/
theorem send_congr {s t : State} (h : s.SameMap t) (hdl : s.dl = t.dl) (v : Byte) (rs : Bool) : send s v rs = send t v rs := by
  simp [send, h.wiredRW, hdl, State.setLevel, h.resolve, write8bits, write4bits, pulseEnable, h.cfg, driveLines]

/-- Sending a byte and returning (R152, R154). -/
theorem run_send (v : Byte) (rs : Bool) (res : Option Byte) (h0 : s.dataCount ≠ .zero) (hm : s.ModeOk) :
    s.run (emits (send s v rs) ++ ret res) =
      { s with trace := s.trace ++ send s v rs, lines := s.linesAfter rs v s.lines, result := res } := by
  rw [State.run_append, State.run_emits, replay_send _ _ _ _ h0 hm]
  rfl

/-- A toggle of a display-control bit: `c` is the register after its writes (R201 to R204, R214). -/
theorem run_reissue_control (ws : List RegWrite) (c : Byte) (hws : s.writeAll ws = { s with control := c })
    (h0 : s.dataCount ≠ .zero) (hm : s.ModeOk) :
    s.run (reissue ws (fun t => cmdControl t.control) s) =
      { s with control := c, trace := s.trace ++ send s (cmdControl c) false,
               lines := s.linesAfter false (cmdControl c) s.lines, result := none } := by
  rw [reissue, hws, List.append_assoc, State.run_append, State.run_writes, hws]
  exact run_send { s with control := c } _ _ _ h0 hm

/-- A toggle of an entry-mode bit: `m` is the register after its writes (R206 to R209, R214). -/
theorem run_reissue_entryMode (ws : List RegWrite) (m : Byte) (hws : s.writeAll ws = { s with entryMode := m })
    (h0 : s.dataCount ≠ .zero) (hm : s.ModeOk) :
    s.run (reissue ws (fun t => cmdEntryMode t.entryMode) s) =
      { s with entryMode := m, trace := s.trace ++ send s (cmdEntryMode m) false,
               lines := s.linesAfter false (cmdEntryMode m) s.lines, result := none } := by
  rw [reissue, hws, List.append_assoc, State.run_append, State.run_writes, hws]
  exact run_send { s with entryMode := m } _ _ _ h0 hm

/-- The lines after two bytes are the lines after the last. -/
theorem linesAfter_linesAfter (a b : Bool) (v w : Byte) (ls : Lines) :
    s.linesAfter b w (s.linesAfter a v ls) = s.linesAfter b w ls := by
  refine Lines.ext_get fun r => ?_
  cases r with
  | d i =>
    simp only [State.linesAfter, Lines.get, Fin.getElem_fin, Vector.getElem_ofFn]
    split <;> rfl
  | _ => cases hw : s.wiredRW <;> simp [State.linesAfter, Lines.get, hw]

/-- The lines after a sequence of data bytes. -/
theorem replay_dataBytes (h0 : s.dataCount ≠ .zero) (hm : s.ModeOk) (ls : Lines) (ps : List Byte) :
    s.replay ls (ps.flatMap fun p => send s p true) =
      match ps.getLast? with
      | none => ls
      | some v => s.linesAfter true v ls := by
  induction ps generalizing ls with
  | nil => rfl
  | cons p ps ih =>
    rw [List.flatMap_cons, State.replay_append, ih, replay_send _ _ _ _ h0 hm]
    cases ps with
    | nil => rfl
    | cons q ps => simp only [List.getLast?_cons, Option.getD_some, linesAfter_linesAfter]

/-- The transfers of a sequence of data bytes. -/
theorem transfersFrom_dataBytes (h0 : s.dataCount ≠ .zero) (hm : s.ModeOk) (ls : Lines) (ps : List Byte) :
    s.transfersFrom ls (ps.flatMap fun p => send s p true) = ps.flatMap (s.byteTransfers true) := by
  induction ps generalizing ls with
  | nil => rfl
  | cons p ps ih => rw [List.flatMap_cons, State.transfersFrom_append, ih, transfersFrom_send _ _ _ _ h0 hm]; rfl

/-- The number of events of a sequence of data bytes. -/
theorem length_dataBytes (h0 : s.dataCount ≠ .zero) (hm : s.ModeOk) (ps : List Byte) :
    (ps.flatMap fun p => send s p true).length = ps.length * s.byteEvents := by
  simp [List.length_flatMap, length_send _ _ _ h0 hm]

/-- PRINT's loop writes the bytes before the first 0x00 and counts them (R240, R243). -/
theorem printLoop_eq (text : List Byte) (count : Nat) :
    printLoop s text count =
      ((text.takeWhile (· ≠ 0x00)).flatMap (fun p => send s p true), count + (text.takeWhile (· ≠ 0x00)).length) := by
  induction text generalizing count with
  | nil => rfl
  | cons t ts ih =>
    by_cases ht : t = 0x00#8
    · simp [printLoop, ht]
    · simp [printLoop, ht, write, ih]
      omega

end Sys2Proof.Machine
end

