-- ==== Sys2Proof/Laws/Step.lean ====
section
/-! SUPPORT. What one step can do, said once: the inversion of `step`, and the laws of a running request going on. -/

namespace Sys2Proof.Machine

variable (s : State)

/-! ### A running request goes on -/

@[simp] theorem advance_idle (h : s.seq = .idle) : s.advance = s := by simp [State.advance, h]

theorem advance_busy {req : Instr} {pos : Nat} {rest : List Micro} (h : s.seq = .busy req pos rest) :
    s.advance = advanceWith req pos rest s := by simp [State.advance, h]

/-- What going on does (R45): the writes up to the next event are made and the event is emitted, or no event is left and the
remaining writes end the request. -/
theorem advanceWith_cases (req : Instr) (pos : Nat) (rest : List Micro) :
    (∃ ws e ms, rest = writes ws ++ .emit e :: ms ∧
      advanceWith req pos rest s = { (s.writeAll ws).emit e with seq := .busy req (pos + 1) ms }) ∨
    (∃ ws, rest = writes ws ∧ advanceWith req pos rest s = { s.writeAll ws with seq := .idle }) := by
  induction rest generalizing s with
  | nil => exact .inr ⟨[], rfl, rfl⟩
  | cons m ms ih =>
    cases m with
    | emit e => exact .inl ⟨[], e, ms, rfl, rfl⟩
    | write w =>
      obtain ⟨ws, e, ms', h, ht⟩ | ⟨ws, h, ht⟩ := ih (s.write w)
      · exact .inl ⟨w :: ws, e, ms', by simp [h, writes], ht⟩
      · exact .inr ⟨w :: ws, by simp [h, writes], ht⟩

/-- Going on changes no field that neither a write, an event nor the sequencer changes. -/
theorem advance_field {α : Type} (f : State → α) (hw : ∀ t w, f (State.write t w) = f t)
    (he : ∀ t e, f (State.emit t e) = f t) (hq : ∀ (t : State) q, f { t with seq := q } = f t) : f s.advance = f s := by
  have hws : ∀ ws (t : State), f (t.writeAll ws) = f t := by
    intro ws
    induction ws with
    | nil => exact fun _ => rfl
    | cons w ws ih => exact fun t => (ih (t.write w)).trans (hw t w)
  cases hs : s.seq with
  | idle => rw [advance_idle s hs]
  | busy req pos rest =>
    rw [advance_busy s hs]
    obtain ⟨ws, e, ms, -, ht⟩ | ⟨ws, -, ht⟩ := advanceWith_cases s req pos rest
    · rw [ht, hq, he, hws]
    · rw [ht, hq, hws]

@[simp] theorem advance_refused : s.advance.refused = s.refused := advance_field s _ (by simp) (by simp) (fun _ _ => rfl)
@[simp] theorem advance_lastRefusal : s.advance.lastRefusal = s.lastRefusal :=
  advance_field s _ (by simp) (by simp) (fun _ _ => rfl)
@[simp] theorem advance_inputs : s.advance.inputs = s.inputs := advance_field s _ (by simp) (by simp) (fun _ _ => rfl)
@[simp] theorem advance_cfg : s.advance.cfg = s.cfg := advance_field s _ (by simp) (by simp) (fun _ _ => rfl)

/-- Writes run as an expansion (R45). -/
theorem run_writes_emit (ws : List RegWrite) (e : Event) :
    s.run (writes ws ++ [.emit e]) = (s.writeAll ws).emit e := by
  simp

/-! ### One step -/

/-- Accepting a request: it is refused, or it starts (R258). -/
theorem accept_cases (i : Instr) :
    (∃ r, accept i (checkOf i s) (bodyOf i s) s = s.refuse r (encode i)) ∨
    (s.seq = .idle ∧ checkOf i s = none ∧ accept i (checkOf i s) (bodyOf i s) s = { s with seq := .busy i 0 (bodyOf i s) }) := by
  cases hs : s.seq with
  | busy req pos rest => exact .inl ⟨.busy, by simp [accept, hs]⟩
  | idle =>
    cases hc : checkOf i s with
    | some r => exact .inl ⟨r, by simp [accept, hs]⟩
    | none => exact .inr ⟨rfl, rfl, by simp [accept, hs]⟩

/-- The inversion of `step`: the block went on by itself; or a presentation was refused; or a request the host waits for ran
its body; or a request the host does not wait for started. -/
theorem step_cases {s t : State} (h : step s = .next t) :
    (∃ inp, (s.inputs = [] ∧ inp = [] ∨ s.inputs = .wait :: inp) ∧ t = ({ s with inputs := inp } : State).advance) ∨
    (∃ presented later inp r bytes,
      (s.inputs = .call presented :: later ∨ s.inputs = .post presented :: later) ∧
      (bytes = presented ∨ ∃ i rest, decode presented = .ok (i, rest) ∧ bytes = encode i) ∧
      t = ({ s with inputs := inp } : State).refuse r bytes) ∨
    (∃ i inp, s.seq = .idle ∧ checkOf i { s with inputs := inp } = none ∧
      t = ({ s with inputs := inp } : State).run (bodyOf i { s with inputs := inp })) ∨
    (∃ i inp, s.seq = .idle ∧ checkOf i { s with inputs := inp } = none ∧
      t = { s with inputs := inp, seq := .busy i 0 (bodyOf i { s with inputs := inp }) }) := by
  simp only [step, serveInputs] at h
  split at h
  · rename_i hi
    exact .inl ⟨[], .inl ⟨hi, rfl⟩, by rw [← Host.Outcome.next.inj h, ← hi]⟩
  · rename_i later hi
    exact .inl ⟨later, .inr hi, (Host.Outcome.next.inj h).symm⟩
  · rename_i bytes later hi
    have ht := (Host.Outcome.next.inj h).symm
    simp only [servePost] at ht
    split at ht
    · exact .inr (.inl ⟨bytes, later, later, .busy, bytes, .inr hi, .inl rfl, ht⟩)
    · rename_i hs
      split at ht
      · rename_i r _
        exact .inr (.inl ⟨bytes, later, later, r, bytes, .inr hi, .inl rfl, ht⟩)
      · rename_i i rest hd
        obtain ⟨r, ha⟩ | ⟨_, hc, ha⟩ := accept_cases { s with inputs := leftOver .post rest later } i
        · exact .inr (.inl ⟨bytes, later, _, r, encode i, .inr hi, .inr ⟨i, rest, hd, rfl⟩, ht.trans ha⟩)
        · exact .inr (.inr (.inr ⟨i, _, hs, hc, ht.trans ha⟩))
  · rename_i bytes later hi
    simp only [serveCall] at h
    split at h
    · exact .inr (.inl ⟨bytes, later, later, .busy, bytes, .inl hi, .inl rfl, (Host.Outcome.next.inj h).symm⟩)
    · rename_i hs
      split at h
      · rename_i r _
        exact .inr (.inl ⟨bytes, later, later, r, bytes, .inl hi, .inl rfl, (Host.Outcome.next.inj h).symm⟩)
      · rename_i i rest hd
        obtain ⟨r, ht⟩ | ⟨_, hc, ht⟩ := exec_cases _ h
        · exact .inr (.inl ⟨bytes, later, _, r, encode i, .inl hi, .inr ⟨i, rest, hd, rfl⟩, ht⟩)
        · exact .inr (.inr (.inl ⟨i, _, hs, hc, ht⟩))

end Sys2Proof.Machine
end

