-- ==== Sys2Proof/Tests/Slice0.lean ====
section
/-! SUPPORT. Tests of the model against the vectors of spec/95_test_vectors.md (their ids stand beside them) and the tables
they rest on, and a witness for every obligation that has hypotheses. -/

namespace Sys2Proof.Tests

open Sys2Proof Sys2Proof.Machine

/-! ### Helpers -/

/-- The state after a request, run from an idle port. -/
def after (i : Instr) (s : State) : State :=
  match exec i s with
  | .next t => t
  | .fault _ => s
  | .refused _ => s

/-- The state after one step. -/
def stepped (s : State) : State :=
  match step s with
  | .next t => t
  | .fault _ => s
  | .refused _ => s

/-- The bindings of set-ups 4W, 4U, 8W and 8U. -/
def bound4W : State := after (.bindData4 0 1 2 3) (after (.bindCtrl 6 5 4) State.reset)
def bound4U : State := after (.bindData4 0 1 2 3) (after (.bindCtrl 0xFF 5 4) State.reset)
def bound8W : State := after (.bindData8 0 1 2 3 4 5 6 7) (after (.bindCtrl 6 5 4) State.reset)
def bound8U : State := after (.bindData8 0 1 2 3 4 5 6 7) (after (.bindCtrl 0xFF 5 4) State.reset)

/-- The registers and lines a set-up has just after `BEGIN 16, 2, 0`; its trace is left out. -/
def ready (s : State) (rw : Level) (high : Level) : State :=
  { s with function := s.function ||| 0x08, control := 0x04, entryMode := 0x02, numRows := 2,
           rowOffset := #v[0x00, 0x40, 0x10, 0x50], lifecycle := .ready,
           lines := ⟨.driven false, rw, .driven false,
             #v[.driven false, .driven true, .driven true, .driven false, high, high, high, high]⟩ }

def ready4W : State := ready bound4W (.driven false) .undriven
def ready4U : State := ready bound4U .undriven .undriven
def ready8W : State := ready bound8W (.driven false) (.driven false)
def ready8U : State := ready bound8U .undriven (.driven false)

/-- The transfers of a request: RS, RW (`none` when unwired) and the number on the data lines. -/
def sent (i : Instr) (s : State) : List (Level × Option Level × Option Nat) :=
  (s.transfersFrom s.lines (newEvents s (after i s))).map fun t => (t.rs, t.rw, t.number)

/-- Expected transfers: command nibbles or bytes with RW wired, data ones, and the same with RW unwired. -/
def cmd (n : Nat) : Level × Option Level × Option Nat := (.driven false, some (.driven false), some n)
def dat (n : Nat) : Level × Option Level × Option Nat := (.driven true, some (.driven false), some n)
def cmdU (n : Nat) : Level × Option Level × Option Nat := (.driven false, none, some n)
def datU (n : Nat) : Level × Option Level × Option Nat := (.driven true, none, some n)

/-- The number of events of a request and the sum of its delays. -/
def cost (i : Instr) (s : State) : Nat × Nat :=
  ((newEvents s (after i s)).length, minDuration (newEvents s (after i s)))

/-- The reason and the bytes a request is refused with. -/
def refusal (i : Instr) (s : State) : Option (Reason × List Byte) := (after i s).lastRefusal

/-- The state with one presentation at the port. -/
def offered (s : State) (bytes : List Byte) : State := { s with inputs := [.call bytes] }

/-- A state in which BEGIN runs and has emitted its first event. -/
def running : State := stepped (stepped { bound4W with inputs := [.post [0x20, 16, 2, 0]] })

/-! ### Well-formedness -/

theorem test_print_length_checked : (Instr.print 2 [0x41]).wellFormed = false := by decide
theorem test_print_surplus_checked : (Instr.print 0 [0x41]).wellFormed = false := by decide
theorem test_print_exact_accepted : (Instr.print 2 [0x41, 0x42]).wellFormed = true := by decide

/-! ### Decoding, every constructor: words written out from the opcode map R93 -/

theorem test_decode_pin_map :
    decode [0b00010000, 0xFF, 5, 4] = .ok (.bindCtrl 0xFF 5 4, []) ∧
    decode [0b00010001, 1, 2, 3, 4] = .ok (.bindData4 1 2 3 4, []) ∧
    decode [0b00010010, 1, 2, 3, 4, 5, 6, 7, 8] = .ok (.bindData8 1 2 3 4 5 6 7 8, []) := by decide

theorem test_decode_begin : decode [0b00100000, 16, 2, 1] = .ok (.begin 16 2 1, []) := by decide

theorem test_decode_transmission :
    decode [0b00110000] = .ok (.pulseEnable, []) ∧ decode [0b00110001, 3] = .ok (.write4bits 3, []) ∧
    decode [0b00110010, 0x38] = .ok (.write8bits 0x38, []) ∧ decode [0b00110011, 0x41, 1] = .ok (.send 0x41 1, []) ∧
    decode [0b00110100, 0x28] = .ok (.command 0x28, []) ∧ decode [0b00110101, 0x7E] = .ok (.write 0x7E, []) := by decide

theorem test_decode_display_state :
    decode [0b01000000] = .ok (.displayOn, []) ∧ decode [0b01000001] = .ok (.displayOff, []) ∧
    decode [0b01000010] = .ok (.cursorOn, []) ∧ decode [0b01000011] = .ok (.cursorOff, []) ∧
    decode [0b01000100] = .ok (.autoscrollOn, []) ∧ decode [0b01000101] = .ok (.autoscrollOff, []) := by decide

theorem test_decode_display_moves :
    decode [0b01000110] = .ok (.leftToRight, []) ∧ decode [0b01000111] = .ok (.rightToLeft, []) ∧
    decode [0b01001000] = .ok (.scrollLeft, []) ∧ decode [0b01001001] = .ok (.scrollRight, []) ∧
    decode [0b01001010] = .ok (.clear, []) ∧ decode [0b01001011] = .ok (.home, []) := by decide

theorem test_decode_positioning :
    decode [0b01010000, 3, 1] = .ok (.setCursor 3 1, []) ∧
    decode [0b01010001, 9, 1, 2, 3, 4, 5, 6, 7, 8] = .ok (.createChar 9 1 2 3 4 5 6 7 8, []) := by decide

theorem test_decode_print : decode [0b01100000, 2, 0x41, 0x42, 0x43] = .ok (.print 2 [0x41, 0x42], [0x43]) := by decide

/-- DE1 to DE6. -/
theorem test_decode_refusals :
    decode [] = .error .truncated ∧ decode [0x00] = .error .badOpcode ∧ decode [0x13] = .error .badOpcode ∧
    decode [0x4C] = .error .badOpcode ∧ decode [0x61] = .error .badOpcode ∧ decode [0xFF] = .error .badOpcode ∧
    decode [0x21] = .error .badOpcode ∧ decode [0x10, 0xFF, 5] = .error .truncated ∧ decode [0x60] = .error .truncated ∧
    decode [0x34] = .error .truncated := by decide

/-- The edges of the reserved ranges of R94. -/
theorem test_decode_reserved_edges :
    ∀ op ∈ ([0x0F, 0x13, 0x1F, 0x21, 0x2F, 0x36, 0x3F, 0x4C, 0x4F, 0x52, 0x5F, 0x61] : List Byte),
      decode [op] = .error .badOpcode := by decide

/-- The table numbering: byte k is bits 8k+7..8k. -/
theorem test_table_word : decodeTableWord 32 0x00021020 = some (.begin 16 2 0) := by decide

/-- The examples of R99. -/
theorem test_assembler :
    assemble "BIND_CTRL UNUSED, 5, 4" = some (.bindCtrl 0xFF 5 4) ∧ assemble "BEGIN 16, 2, 0" = some (.begin 16 2 0) ∧
    assemble "SET_CURSOR 3, 1" = some (.setCursor 3 1) ∧ assemble "PRINT \"AB\"" = some (.print 2 [0x41, 0x42]) := by decide

/-! ### The pin map -/

/-- PM1. -/
theorem test_bindCtrl :
    after (.bindCtrl 0xFF 5 4) State.reset = { State.reset with pinEN := 5, pinRS := 4, ctrlBound := true } := by decide
/-- PM2. -/
theorem test_bindCtrl_badPin : refusal (.bindCtrl 16 5 4) State.reset = some (.badPin, [0x10, 16, 5, 4]) := by decide
/-- PM7: the last binding wins. -/
theorem test_bindData4 :
    after (.bindData4 0 1 2 3) (after (.bindData8 0 1 2 3 4 5 6 7) State.reset) =
      { State.reset with data := #v[0, 1, 2, 3, 0xFF, 0xFF, 0xFF, 0xFF], dataCount := .four } := by decide
/-- PM4. -/
theorem test_bindData4_badPin : refusal (.bindData4 0 1 2 16) State.reset = some (.badPin, [0x11, 0, 1, 2, 16]) := by decide
/-- PM6. -/
theorem test_bindData8 :
    (after (.bindData8 0 1 2 3 4 5 6 7) State.reset).function = 0x10 ∧
    (after (.bindData8 0 1 2 3 4 5 6 7) State.reset).dataCount = .eight := by decide
/-- PM8 (and DE7). -/
theorem test_bindData8_rebind :
    (refusal (.bindData8 0 1 2 3 4 5 6 7) ready4W).map Prod.fst = some .rebindAfterBegin := by decide

/-! ### Initialization -/

/-- P1: the transfers of BEGIN, its events and its time. -/
theorem test_begin_P1 :
    sent (.begin 16 2 0) bound4W =
      [cmd 0x3, cmd 0x3, cmd 0x3, cmd 0x2, cmd 0x2, cmd 0x8, cmd 0x0, cmd 0xC, cmd 0x0, cmd 0x1, cmd 0x0, cmd 0x6] ∧
    cost (.begin 16 2 0) bound4W = (147, 99) := by decide +kernel

/-- P1's end state, and IN13's (8-bit, one row, tall font). -/
theorem test_begin_end :
    { after (.begin 16 2 0) bound4W with trace := [] } = ready4W ∧ (after (.begin 16 1 7) bound8U).function = 0x14 := by
  decide +kernel

/-- IN6: phases S2..S9 start at events 0, 11, 12, 15, 58, 80, 102 and 125; the last event is 146. -/
theorem test_begin_phases :
    [0, 10, 11, 12, 14, 15, 57, 58, 79, 80, 101, 102, 124, 125, 146].map
        (fun pos => ({ running with seq := .busy (.begin 16 2 0) pos [] } : State).initPhase) =
      [some .S2, some .S2, some .S3, some .S4, some .S4, some .S5, some .S5, some .S6, some .S6, some .S7, some .S7, some .S8,
        some .S8, some .S9, some .S9] := by decide +kernel

/-! ### Transmission -/

/-- S14 and TX2. -/
theorem test_pulseEnable :
    newEvents ready4W (after .pulseEnable ready4W) =
      [.setLevel .en ⟨2⟩ 5 false, .delayMs 1, .setLevel .en ⟨2⟩ 5 true, .delayMs 1, .setLevel .en ⟨2⟩ 5 false, .delayMs 1] ∧
    sent .pulseEnable ready4W = [cmd 0x6] := by decide
/-- TX1. -/
theorem test_pulseEnable_notBegun : refusal .pulseEnable State.reset = some (.notBegun, [0x30]) := by decide
/-- TX3 and TX4. -/
theorem test_write4bits :
    (newEvents ready4W (after (.write4bits 3) ready4W)).take 4 =
      [.setLevel (.d 0) ⟨0⟩ 0 true, .setLevel (.d 1) ⟨0⟩ 1 true, .setLevel (.d 2) ⟨0⟩ 2 false, .setLevel (.d 3) ⟨0⟩ 3 false] ∧
    sent (.write4bits 0xF5) ready4W = [cmd 0x5] := by decide
/-- TX22. -/
theorem test_write4bits_8bit : sent (.write4bits 0x05) (after (.write8bits 0xF0) ready8W) = [cmd 0xF5] := by decide
/-- TX15. -/
theorem test_write8bits : sent (.write8bits 0x38) ready8W = [cmd 0x38] ∧ cost (.write8bits 0x38) ready8W = (14, 3) := by decide
/-- TX14. -/
theorem test_write8bits_width : refusal (.write8bits 0x38) ready4W = some (.widthMismatch, [0x32, 0x38]) := by decide
/-- TX5. -/
theorem test_send : sent (.send 0x41 1) ready4W = [dat 0x4, dat 0x1] ∧ cost (.send 0x41 1) ready4W = (22, 6) := by decide
/-- TX8. -/
theorem test_send_mode : refusal (.send 0x41 2) ready4W = some (.badOperand, [0x33, 0x41, 2]) := by decide
/-- TX10. -/
theorem test_command :
    sent (.command 0x28) ready4U = [cmdU 0x2, cmdU 0x8] ∧ (after (.command 0x28) ready4U).function = 0x08 := by decide
/-- TX19 and TX20. -/
theorem test_write :
    sent (.write 0x7E) ready8W = [dat 0x7E] ∧ (after (.write 0x7E) ready8W).result = some 1 ∧
    cost (.write 0x41) ready8U = (15, 3) := by decide

/-! ### Display state -/

/-- DS14's last step: display on keeps the cursor bits. -/
theorem test_displayOn :
    (after .displayOn (after .cursorOn (after .displayOff ready4W))).control = 0x07 := by decide
/-- DS2. -/
theorem test_displayOff : (after .displayOff ready4W).control = 0x00 ∧ sent .displayOff ready4W = [cmd 0x0, cmd 0x8] := by decide
/-- DS3. -/
theorem test_cursorOn : (after .cursorOn ready4W).control = 0x07 ∧ sent .cursorOn ready4W = [cmd 0x0, cmd 0xF] := by decide
/-- DS15's last step. -/
theorem test_cursorOff : (after .cursorOff (after .cursorOn ready4W)).control = 0x04 := by decide
/-- DS5. -/
theorem test_autoscrollOn :
    (after .autoscrollOn ready4W).entryMode = 0x03 ∧ sent .autoscrollOn ready4W = [cmd 0x0, cmd 0x7] := by decide
/-- DS13's last step. -/
theorem test_autoscrollOff :
    (after .autoscrollOff (after .autoscrollOn ready4W)).entryMode = 0x02 ∧ sent .autoscrollOff ready4W = [cmd 0x0, cmd 0x6] := by
  decide
/-- DS13's third step. -/
theorem test_leftToRight :
    (after .leftToRight (after .rightToLeft (after .autoscrollOn ready4W))).entryMode = 0x03 := by decide
/-- DS8. -/
theorem test_rightToLeft :
    (after .rightToLeft ready4W).entryMode = 0x00 ∧ sent .rightToLeft ready4W = [cmd 0x0, cmd 0x4] := by decide
/-- DS9, and the same in 8-bit mode with RW unwired. -/
theorem test_scrollLeft : sent .scrollLeft ready4W = [cmd 0x1, cmd 0x8] ∧ sent .scrollLeft ready8U = [cmdU 0x18] := by decide
/-- DS10. -/
theorem test_scrollRight : sent .scrollRight ready4W = [cmd 0x1, cmd 0xC] := by decide
/-- DS11. -/
theorem test_clear : sent .clear ready4W = [cmd 0x0, cmd 0x1] ∧ cost .clear ready4W = (23, 8) := by decide
/-- DS12. -/
theorem test_home : sent .home ready4W = [cmd 0x0, cmd 0x2] ∧ (newEvents ready4W (after .home ready4W)).getLast? = some (.delayMs 2) := by
  decide
/-- SC2, SC3 and SC7. -/
theorem test_setCursor :
    sent (.setCursor 3 1) ready4W = [cmd 0xC, cmd 0x3] ∧ sent (.setCursor 0 7) ready4W = [cmd 0xC, cmd 0x0] ∧
    sent (.setCursor 0xFF 1) ready4W = [cmd 0xB, cmd 0xF] := by decide
/-- SC12: the row is clamped to the last slot. -/
theorem test_setCursor_slot :
    sent (.setCursor 0 0xFF) { ready8W with numRows := 4, rowOffset := #v[0x00, 0x40, 0x14, 0x54] } = [cmd 0xD4] := by decide
/-- CC2. -/
theorem test_createChar :
    sent (.createChar 9 1 2 3 4 5 6 7 8) ready8U =
      [cmdU 0x48, datU 1, datU 2, datU 3, datU 4, datU 5, datU 6, datU 7, datU 8] ∧
    cost (.createChar 9 1 2 3 4 5 6 7 8) ready8U = (135, 27) := by decide +kernel

/-! ### The stream writer -/

/-- PR3: PRINT stops at 0x00. -/
theorem test_print_stops :
    sent (.print 3 [0x41, 0x00, 0x42]) ready4W = [dat 0x4, dat 0x1] ∧
    (after (.print 3 [0x41, 0x00, 0x42]) ready4W).result = some 1 := by decide
/-- PR5: the byte after PRINT's text starts the next request. -/
theorem test_print_rest :
    (stepped (offered ready4W [0x60, 0x02, 0x41, 0x42, 0x43])).result = some 2 ∧
    (stepped (offered ready4W [0x60, 0x02, 0x41, 0x42, 0x43])).inputs = [.call [0x43]] := by decide

/-! ### Refusals and the port -/

/-- DE9 and DE10. -/
theorem test_refusal_keeps_result :
    (after (.send 1 5) (after (.write 0x41) ready4W)).result = some 1 ∧
    (after .displayOff (after (.send 1 5) (after (.write 0x41) ready4W))).result = none ∧
    (after .displayOff (after (.send 1 5) (after (.write 0x41) ready4W))).refused = true := by decide

/-- DE8: BadRows ranks above NotBound. -/
theorem test_priority : refusal (.begin 16 0 0) State.reset = some (.badRows, [0x20, 16, 0, 0]) := by decide

/-- PM12: EN and D0 are both pin 0 of one port. -/
theorem test_aliased :
    refusal (.begin 16 2 0) (after (.bindData4 0 1 2 3) (after (.bindCtrl 0xFF 0 4)
      (State.construct { Config.default with portRW := ⟨0⟩, portEN := ⟨0⟩, portRS := ⟨0⟩ }))) =
        some (.aliasedPins, [0x20, 16, 2, 0]) := by decide

/-- DE11: a request is refused `Busy` while another runs, and the other goes on. -/
theorem test_busy :
    ((stepped (stepped { ready4W with inputs := [.post [0x30], .call [0x42]] })).lastRefusal = some (.busy, [0x42])) ∧
    (stepped (stepped (stepped { ready4W with inputs := [.post [0x30], .call [0x42]] }))).trace =
      [.setLevel .en ⟨2⟩ 5 false] := by decide

/-- R272: an instance that drives pin 5 of port 2, this instance's EN, raises this instance's line. -/
theorem test_shared_pin :
    (ready4W.observe [.setLevel (.d 0) ⟨2⟩ 5 true]).lines = { ready4W.lines with en := .driven true } := by decide

/-! ### Witnesses: states and operands that meet the hypotheses of the obligations -/

theorem witness_DecodeOfEncode :
    (Instr.print 2 [0x41, 0x42]).wellFormed = true ∧ (Instr.print 0 []).wellFormed = true ∧
    (Instr.print 0xFF (List.replicate 255 0x2A)).wellFormed = true := by decide +kernel

theorem witness_EncodeOfDecode : ∃ i rest, decode [0x33, 0x41, 0x01, 0x30] = .ok (i, rest) := ⟨.send 0x41 1, [0x30], by decide⟩

theorem witness_ReservedOpcodesAreRefused :
    (offered State.reset [0x13, 0x00]).seq = .idle ∧ decode [0x13, 0x00] = .error .badOpcode := by decide

theorem witness_TruncatedAndSurplusBytes :
    (Instr.begin 16 2 0).wellFormed = true ∧ 3 < (encode (.begin 16 2 0)).length ∧ State.reset.seq = .idle ∧
    (offered State.reset ((encode (.begin 16 2 0)).take 3)).inputs = [.call ((encode (.begin 16 2 0)).take 3)] ∧
    ({ State.reset with inputs := [.post ((encode (.begin 16 2 0)).take 0)] } : State).inputs =
      [.post ((encode (.begin 16 2 0)).take 0)] ∧
    (offered State.reset (encode (.begin 16 2 0) ++ 0x30 :: [])).inputs = [.call (encode (.begin 16 2 0) ++ 0x30 :: [])] ∧
    ({ State.reset with inputs := [.post (encode (.begin 16 2 0) ++ 0x30 :: [])] } : State).inputs =
      [.post (encode (.begin 16 2 0) ++ 0x30 :: [])] := by
  decide

theorem witness_StepRunsTheDecodedRequest :
    (offered ready4W [0x60, 0x01, 0x41, 0x30]).seq = .idle ∧
    (offered ready4W [0x60, 0x01, 0x41, 0x30]).inputs = [.call [0x60, 0x01, 0x41, 0x30]] ∧
    decode [0x60, 0x01, 0x41, 0x30] = .ok (.print 1 [0x41], [0x30]) := by decide

theorem witness_RefusalChangesOnlyTheMark :
    ∃ t, step (offered State.reset [0x13]) = .next t ∧ t.lastRefusal ≠ (offered State.reset [0x13]).lastRefusal :=
  ⟨stepped (offered State.reset [0x13]), rfl, by decide⟩

theorem witness_BusyPortRefuses :
    ∃ req pos rest, running.seq = .busy req pos rest ∧ (offered running [0x42]).inputs = [.call [0x42]] ∧
      ({ running with inputs := [.post [0x42]] } : State).inputs = [.post [0x42]] :=
  ⟨_, _, _, rfl, rfl, rfl⟩

theorem witness_RefusedMarkIsSticky :
    ∃ s t, step s = .next t ∧ s.refused = true :=
  ⟨offered (after .pulseEnable State.reset) [0x30], _, rfl, by decide⟩

theorem witness_BusRequestsNeedBegin :
    State.reset.seq = .idle ∧ State.reset.lifecycle ≠ .ready ∧ needsBegin (.print 0 []) = true ∧
    needsBegin .pulseEnable = true := by decide

theorem witness_NoRebindingAfterBegin :
    ready4W.seq = .idle ∧ ready4W.lifecycle ≠ .constructed ∧ isBinding (.bindData4 4 5 6 7) = true := by decide

/-- PM15's pin map: D1 and D2 are one pin. -/
def aliased : State := after (.bindData4 0 1 1 3) (after (.bindCtrl 6 5 4) State.reset)

/-- One for each clause, at the bounds 0, 1, 4 and 5 of the row count. -/
theorem witness_BeginRefusalsInOrder :
    State.reset.seq = .idle ∧ ¬ (1 ≤ (0 : Byte).toNat ∧ (0 : Byte).toNat ≤ 4) ∧ ¬ (1 ≤ (5 : Byte).toNat ∧ (5 : Byte).toNat ≤ 4) ∧
    (1 ≤ (1 : Byte).toNat ∧ (1 : Byte).toNat ≤ 4) ∧ (1 ≤ (4 : Byte).toNat ∧ (4 : Byte).toNat ≤ 4) ∧
    State.reset.ctrlBound = false ∧ State.reset.dataCount = .zero ∧
    aliased.seq = .idle ∧ aliased.ctrlBound = true ∧ aliased.dataCount ≠ .zero ∧
    ¬ ∀ r ∈ aliased.activeRoles, ∀ q ∈ aliased.activeRoles, aliased.resolve r = aliased.resolve q → r = q := by decide

/-- One for each clause, at the bounds of the pin range and at the sentinel. -/
theorem witness_BindCtrlResult :
    State.reset.seq = .idle ∧ State.reset.lifecycle = .constructed ∧ (15 : Byte).toNat < State.reset.cfg.pinCount ∧
    ((0xFF : Byte) = 0xFF ∨ (0xFF : Byte).toNat < State.reset.cfg.pinCount) ∧ ¬ (16 : Byte).toNat < State.reset.cfg.pinCount ∧
    ready4W.seq = .idle ∧ ready4W.lifecycle ≠ .constructed := by decide

theorem witness_BindDataResults :
    State.reset.seq = .idle ∧ State.reset.lifecycle = .constructed ∧
    (∀ p ∈ ([0, 1, 2, 15] : List Byte), p.toNat < State.reset.cfg.pinCount) ∧
    (¬ ∀ p ∈ ([0, 1, 2, 16] : List Byte), p.toNat < State.reset.cfg.pinCount) ∧
    (∀ p ∈ ([0, 1, 2, 3, 4, 5, 6, 15] : List Byte), p.toNat < State.reset.cfg.pinCount) ∧
    (¬ ∀ p ∈ ([0, 1, 2, 3, 4, 5, 6, 16] : List Byte), p.toNat < State.reset.cfg.pinCount) ∧
    ready4W.seq = .idle ∧ ready4W.lifecycle ≠ .constructed := by decide

theorem witness_LastDataBindingWins :
    State.reset.seq = .idle ∧ State.reset.lifecycle = .constructed ∧
    (∀ p ∈ ([0, 1, 2, 3] : List Byte), p.toNat < State.reset.cfg.pinCount) ∧
    (∀ p ∈ ([0, 1, 2, 3, 4, 5, 6, 7] : List Byte), p.toNat < State.reset.cfg.pinCount) ∧
    (∃ t, exec (.bindData8 0 1 2 3 4 5 6 7) State.reset = .next t) ∧ ∃ t, exec (.bindData4 0 1 2 3) State.reset = .next t :=
  ⟨by decide, by decide, by decide, by decide, ⟨_, rfl⟩, ⟨_, rfl⟩⟩

/-- For PulseEnableResult, Write4bitsResult, Write4bitsIgnoresUpperBits and both clauses of Write8bitsResult. -/
theorem witness_Ready :
    ready4W.Ready ∧ ready4W.dataCount ≠ .zero ∧ ready4W.dataCount ≠ .eight ∧ ready8U.Ready ∧ ready8U.dataCount = .eight := by
  decide

theorem witness_SendDrivesControlLinesFirst :
    ready4U.Ready ∧ ((1 : Byte) = 0 ∨ (1 : Byte) = 1) ∧ (2 : Byte) ≠ 0 ∧ (2 : Byte) ≠ 1 := by decide

/-- For every result statement of a request that sends bytes, in each of the four set-ups. -/
theorem witness_BusReady : ready4W.BusReady ∧ ready4U.BusReady ∧ ready8W.BusReady ∧ ready8U.BusReady := by decide

/-- For the BEGIN statements: both bus widths, and the row counts 1 and 4. -/
theorem witness_Begin :
    bound4W.seq = .idle ∧ 1 ≤ (1 : Byte).toNat ∧ (1 : Byte).toNat ≤ 4 ∧ 1 ≤ (4 : Byte).toNat ∧ (4 : Byte).toNat ≤ 4 ∧
    bound4W.ctrlBound = true ∧ bound4W.dataCount = .four ∧ bound4W.ModeOk ∧ bound4W.aliasFree = true ∧
    bound8U.seq = .idle ∧ bound8U.ctrlBound = true ∧ bound8U.dataCount = .eight ∧ bound8U.ModeOk ∧
    bound8U.aliasFree = true := by decide

/-- For BeginPhaseEventCounts: a BEGIN that runs, in a state with bound data pins. -/
theorem witness_BeginPhaseEventCounts :
    running.dataCount ≠ .zero ∧ running.ModeOk ∧ ∃ cols rows font pos rest, running.seq = .busy (.begin cols rows font) pos rest :=
  ⟨by decide, by decide, _, _, _, _, _, rfl⟩

theorem witness_Begin_runs : ∃ t, exec (.begin 16 2 0) bound4W = .next t := ⟨_, rfl⟩

/-- SC7: column 255 of row 1, and a clamped row. -/
theorem witness_SetCursorResult :
    ready4W.BusReady ∧ 1 ≤ ready4W.numRows ∧
    (1 : Fin 4).val = min (1 : Byte).toNat (min (ready4W.numRows - 1) 3) ∧
    (1 : Fin 4).val = min (0xFF : Byte).toNat (min (ready4W.numRows - 1) 3) ∧
    (0xBF : Byte).toNat = 128 + ((0xFF : Byte).toNat + ready4W.rowOffset[(1 : Fin 4)].toNat) % 128 := by decide

theorem witness_CreateCharMasksSlot : ready8U.Ready ∧ (9 : Byte).toNat % 8 = (1 : Byte).toNat % 8 := by decide

/-- One state for each register's pairs, with the bits 0 and with the bits 1. -/
theorem witness_PairedTogglesRestore :
    ready4W.Ready ∧ (after .displayOff ready4W).control &&& 0x04 = 0 ∧ ready4W.control &&& 0x04 = 0x04 ∧
    ready4W.control &&& 0x03 = 0 ∧ (after .cursorOn ready4W).control &&& 0x03 = 0x03 ∧
    ready4W.entryMode &&& 0x01 = 0 ∧ (after .autoscrollOn ready4W).entryMode &&& 0x01 = 0x01 ∧
    (after .rightToLeft ready4W).entryMode &&& 0x02 = 0 ∧ ready4W.entryMode &&& 0x02 = 0x02 ∧
    (after .displayOff ready4W).Ready ∧ (after .cursorOn ready4W).Ready ∧ (after .autoscrollOn ready4W).Ready ∧
    (after .rightToLeft ready4W).Ready := by decide

theorem witness_PrintResult :
    ready4W.BusReady ∧ ([] : List Byte).length = (0 : Byte).toNat ∧ ([0x41, 0x00] : List Byte).length = (2 : Byte).toNat ∧
    (List.replicate 255 (0x2A : Byte)).length = (0xFF : Byte).toNat := by decide +kernel

theorem witness_MinimumDurations :
    ready4W.seq = .idle ∧ checkOf .clear ready4W = none ∧ ready4W.dataCount ≠ .zero ∧ ready4W.ModeOk ∧
    ready4W.cfg.DefaultTimings ∧ State.reset.seq = .idle ∧ checkOf (.bindCtrl 6 5 4) State.reset = none ∧
    isBinding (.bindCtrl 6 5 4) = true ∧ State.reset.cfg.DefaultTimings := by decide

/-- A pulse (3 ms in the table) on a schedule that takes 5 ms; a schedule of 3 ms that cuts its second delay respects nothing. -/
theorem witness_SchedulesTakeAtLeastTheDelays :
    ready4W.seq = .idle ∧ checkOf .pulseEnable ready4W = none ∧ ready4W.dataCount ≠ .zero ∧ ready4W.ModeOk ∧
    ready4W.cfg.DefaultTimings ∧ exec .pulseEnable ready4W = .next (after .pulseEnable ready4W) ∧
    respects (newEvents ready4W (after .pulseEnable ready4W)) [10, 10, 11, 12, 13, 13, 15] = true ∧
    ([10, 10, 11, 12, 13, 13, 15] : List Nat).head? = some 10 ∧ ([10, 10, 11, 12, 13, 13, 15] : List Nat).getLast? = some 15 ∧
    respects (newEvents ready4W (after .pulseEnable ready4W)) [10, 10, 11, 12, 12, 12, 13] = false :=
  ⟨by decide, by decide, by decide, by decide, by decide, rfl, by decide, rfl, rfl, by decide⟩

/-- For EveryPulseIsTimed and the whole-machine statements about `exec`. -/
theorem witness_exec : ready4W.cfg.Ok ∧ ∃ t, exec (.write 0x41) ready4W = .next t := ⟨by decide, _, rfl⟩

theorem witness_EngineNeverReadsBack :
    ready4W.SameInputs { ready4W with lines := Lines.reset, trace := [.delayMs 1], refused := true } ∧
    (∃ t, exec (.write 0x41) ready4W = .next t) ∧ ready4W.seq = .idle ∧ checkOf (.write 0x41) ready4W = none :=
  ⟨rfl, ⟨_, rfl⟩, by decide, by decide⟩

theorem witness_EngineCommandsHaveTheirClass : ready4W.ReservedOk := by decide

/-- Its busy clause. -/
theorem witness_EveryStepCompletes : (∃ req pos rest, running.seq = .busy req pos rest) ∧ running.inputs = [] :=
  ⟨⟨_, _, _, rfl⟩, rfl⟩

theorem witness_TraceOnlyGrows : ∃ t, step (offered ready4W [0x30]) = .next t := ⟨_, rfl⟩

theorem witness_PositionGrowsByOneWithEachEvent :
    (∃ req pos rest, running.seq = .busy req pos rest) ∧ running.inputs = [] ∧ (∃ t, step running = .next t) ∧
    ∃ later, ({ running with inputs := [.wait] } : State).inputs = .wait :: later :=
  ⟨⟨_, _, _, rfl⟩, rfl, ⟨_, rfl⟩, ⟨_, rfl⟩⟩

theorem witness_StepwiseRunEqualsAtomicRun :
    (Instr.begin 16 2 0).wellFormed = true ∧ bound4W.seq = .idle ∧ bound4W.inputs = [] ∧
    checkOf (.begin 16 2 0) bound4W = none := by decide

theorem witness_ConstructionMeetsTheInvariant : Config.default.Ok := by decide

/-- An idle state with bound pins meets the invariant, and can step. -/
theorem witness_bound_inv : bound4W.IdleInv where
  idle := rfl
  cfg := by decide
  settled := by decide
  reserved := by decide
  rows := by decide
  mode := by decide
  pins := by decide
  data := by decide
  bound := by decide
  lines := by decide
  driven := by decide
  mark := rfl

/-- So does a READY state, with the trace of its BEGIN. -/
theorem witness_ready_inv : (after (.begin 16 2 0) bound4W).IdleInv where
  idle := by decide +kernel
  cfg := by decide +kernel
  settled := by decide +kernel
  reserved := by decide +kernel
  rows := by decide +kernel
  mode := by decide +kernel
  pins := by decide +kernel
  data := by decide +kernel
  bound := by decide +kernel
  lines := by decide +kernel
  driven := by decide +kernel
  mark := by decide +kernel

/-- For StepKeepsTheInvariant and NeverBackToConstructed: an idle state that takes a step. -/
theorem witness_StepKeepsTheInvariant : bound4W.Inv ∧ ∃ t, step bound4W = .next t := ⟨witness_bound_inv, _, rfl⟩

theorem running_last (w : RegWrite) : ((bodyOf (.begin 16 2 0) bound4W).take 5).getLast? ≠ some (.write w) := by
  intro h
  have h' : some (Micro.emit (.enableClock ⟨0⟩)) = some (.write w) := h
  simp at h'

/-- For InitializingWhileBeginRuns and the busy case of the invariant: a running BEGIN. -/
theorem witness_running_inv :
    running.Inv ∧ running.lifecycle = .initializing ∧
    ∃ cols rows font pos rest, running.seq = .busy (.begin cols rows font) pos rest ∧ 0 < pos :=
  ⟨⟨bound4W, (bodyOf (.begin 16 2 0) bound4W).take 5, witness_bound_inv, by decide, rfl, rfl,
    running_last, rfl⟩, by decide,
    _, _, _, _, _, rfl, by decide⟩

/-- Two engines on different pins of the same ports (R271). -/
def pair : System := ⟨[offered ready4W [0x30],
  after (.bindData4 8 9 10 11) (after (.bindCtrl 14 13 12) State.reset)]⟩

theorem witness_InstancesAreIndependent :
    ∃ z u, System.stepAt 0 pair = .next z ∧ 1 ≠ 0 ∧ pair.engines[1]? = some u := ⟨_, _, rfl, by decide, rfl⟩

theorem witness_DisjointPinsAreUntouched :
    ∃ z u s t, System.stepAt 0 pair = .next z ∧ 1 ≠ 0 ∧ pair.engines[1]? = some u ∧ pair.engines[0]? = some s ∧
      step s = .next t ∧
      (∀ e ∈ newEvents s t, ∀ r ∈ u.activeRoles,
        (∀ p q, e = .configureOutput p q → u.resolve r ≠ (p, q)) ∧
        (∀ x p q b, e = .setLevel x p q b → u.resolve r ≠ (p, q))) := by
  refine ⟨_, _, _, _, rfl, by decide, rfl, rfl, rfl, ?_⟩
  intro e he r hr
  have key : ∀ e ∈ newEvents (offered ready4W [0x30])
      (stepped (offered ready4W [0x30])),
      (∃ n, e = .delayMs n) ∨ ∃ b, e = .setLevel .en ⟨2⟩ 5 b := by
    intro e he
    have he : e ∈ ([.setLevel .en ⟨2⟩ 5 false, .delayMs 1, .setLevel .en ⟨2⟩ 5 true, .delayMs 1, .setLevel .en ⟨2⟩ 5 false,
      .delayMs 1] : List Event) := he
    simp only [List.mem_cons, List.not_mem_nil, or_false] at he
    obtain rfl | rfl | rfl | rfl | rfl | rfl := he <;> simp
  have pins : ∀ r ∈ (after (.bindData4 8 9 10 11) (after (.bindCtrl 14 13 12) State.reset)).activeRoles,
      (after (.bindData4 8 9 10 11) (after (.bindCtrl 14 13 12) State.reset)).resolve r ≠ (⟨2⟩, 5) := by decide
  obtain ⟨n, rfl⟩ | ⟨b, rfl⟩ := key e he
  · exact ⟨fun _ _ h => (nomatch h), fun _ _ _ _ h => (nomatch h)⟩
  · refine ⟨fun _ _ h => (nomatch h), fun x p q b' h => ?_⟩
    cases h
    exact pins r hr

/-- Two engines on the very same pins, the first about to pulse EN. -/
def sharing : System := ⟨[offered ready4W [0x30], bound4W]⟩

/-- The `SetLevel` clause: the pulse drives the other engine's EN line, which is one of its roles; D4 is not. -/
theorem witness_ForeignEventsReachSharedPins :
    ∃ z u s t, System.stepAt 0 sharing = .next z ∧ 1 ≠ 0 ∧ sharing.engines[1]? = some u ∧ sharing.engines[0]? = some s ∧
      step s = .next t ∧ Role.en ∈ u.activeRoles ∧ Role.d 4 ∉ u.activeRoles :=
  ⟨_, _, _, _, rfl, by decide, rfl, rfl, rfl, by decide, by decide⟩

/-- An engine whose posted BEGIN is about to configure its first output, RS, beside a bound one on the same pins. -/
def configuring : System := ⟨[stepped (stepped (stepped running)), bound4W]⟩

/-- The `ConfigureOutput` clause. -/
theorem witness_ForeignEventsReachSharedPins_configure :
    ∃ z u s t, System.stepAt 0 configuring = .next z ∧ 1 ≠ 0 ∧ configuring.engines[1]? = some u ∧
      configuring.engines[0]? = some s ∧ step s = .next t ∧ newEvents s t = [.configureOutput ⟨3⟩ 4] ∧ u.resolve .rs = (⟨3⟩, 4) :=
  ⟨_, _, _, _, rfl, by decide, rfl, rfl, rfl, by decide +kernel, by decide⟩

/-- R272, R53: there the other engine's RS line, UNDRIVEN before, becomes UNKNOWN, and no other line of it changes. -/
theorem test_foreign_configure :
    (match System.stepAt 0 configuring with
      | .next z => z.engines[1]?.map State.lines
      | .fault _ => none
      | .refused _ => none) = some { Lines.reset with rs := .unknown } := by decide +kernel

end Sys2Proof.Tests
end

section
/-! PROOFS. Running requests: the round trip of the decoder at the port, a request left alone until it returns, and the two
obligations of 00_scope.md about the trace and about running event by event. -/

namespace Sys2Proof.Machine

variable (s : State)

/-! ### Decoding an encoded request -/

/-- A PRINT's length byte takes exactly its own text from the bytes that follow (R96, R100). -/
theorem formatFV_text_append (k : Byte → List Byte → Instr) {n : Byte} {text : List Byte} (h : text.length = n.toNat)
    (rest : List Byte) : formatFV k (n :: (text ++ rest)) = .ok (k n text, rest) := by
  simp [formatFV, ← h]

/-- The decoder reads an encoded request and leaves the bytes after it (R90 to R100). -/
theorem decode_encode_append {i : Instr} (h : i.wellFormed = true) (rest : List Byte) :
    decode (encode i ++ rest) = .ok (i, rest) := by
  cases i with
  | print n text => exact formatFV_text_append .print (by simpa [Instr.wellFormed] using h) rest
  | _ => rfl

theorem decode_encode {i : Instr} (h : i.wellFormed = true) : decode (encode i) = .ok (i, []) := by
  simpa using decode_encode_append h []

/-! ### The sequencer is not read by an expansion -/

theorem State.write_withSeq (q : Seq) (w : RegWrite) : ({ s with seq := q } : State).write w = { s.write w with seq := q } := by
  cases w with | set r _ => cases r <;> rfl | clr r _ => cases r <;> rfl | _ => rfl

theorem State.emit_withSeq (q : Seq) (e : Event) : ({ s with seq := q } : State).emit e = { s.emit e with seq := q } := by
  cases e <;> rfl

/-- Running an expansion and setting the sequencer commute. -/
theorem State.run_withSeq (q : Seq) (ms : List Micro) : ({ s with seq := q } : State).run ms = { s.run ms with seq := q } := by
  induction ms generalizing s with
  | nil => rfl
  | cons m ms ih =>
    cases m with
    | write w => rw [State.run_cons_write, State.write_withSeq, ih, State.run_cons_write]
    | emit e => rw [State.run_cons_emit, State.emit_withSeq, ih, State.run_cons_emit]

/-! ### One step of a running request -/

@[simp] theorem State.writeAll_trace (ws : List RegWrite) : (s.writeAll ws).trace = s.trace := by
  rw [← State.run_writes, State.run_trace, eventsOf_writes, List.append_nil]

@[simp] theorem State.writeAll_inputs (ws : List RegWrite) : (s.writeAll ws).inputs = s.inputs := by
  rw [← State.run_writes, State.run_inputs]

/-- A request that goes on emits one event and its position grows by 1, or it emits nothing and returns (R45). -/
theorem advance_trace_cases {req : Instr} {pos : Nat} {rest : List Micro} (h : s.seq = .busy req pos rest) :
    (∃ e ms, s.advance.seq = .busy req (pos + 1) ms ∧ s.advance.trace = s.trace ++ [e]) ∨
    (s.advance.seq = .idle ∧ s.advance.trace = s.trace) := by
  rw [advance_busy s h]
  obtain ⟨ws, e, ms, -, ht⟩ | ⟨ws, -, ht⟩ := advanceWith_cases s req pos rest
  · exact .inl ⟨e, ms, by simp [ht], by simp [ht]⟩
  · exact .inr ⟨by simp [ht], by simp [ht]⟩

/-- A block that goes on by itself keeps the trace so far (R14). -/
theorem trace_prefix_advance : s.trace <+: s.advance.trace := by
  cases h : s.seq with
  | idle => rw [advance_idle s h]
  | busy req pos rest =>
    obtain ⟨e, ms, -, ht⟩ | ⟨-, ht⟩ := advance_trace_cases s h
    · exact ⟨[e], ht.symm⟩
    · rw [ht]

/-- Settles O48: an event only ever joins the trace at its end, whichever of the four things a step does. -/
theorem traceOnlyGrows : Obligations.TraceOnlyGrows := by
  intro s t h
  obtain ⟨inp, -, rfl⟩ | ⟨_, _, inp, r, bytes, -, -, rfl⟩ | ⟨i, inp, -, -, rfl⟩ | ⟨i, inp, -, -, rfl⟩ := step_cases h
  · exact trace_prefix_advance { s with inputs := inp }
  · exact List.prefix_refl _
  · rw [State.run_trace]
    exact List.prefix_append _ _
  · exact List.prefix_refl _

/-! ### Running to the return -/

/-- When the host does nothing, the block goes on by itself (R258, R276). -/
theorem step_of_inputs_nil (h : s.inputs = []) : step s = .next s.advance := by
  simp [step, serveInputs, h]

/-- A run takes its first step and goes on from there, on any machine. -/
theorem run_succ_of_step {M : Host.Core} {s t : M.State} (h : M.step s = .next t) (k : Nat) :
    M.run (k + 1) s = M.run k t := by
  simp [Host.Core.run, h]

theorem core_run_succ_of_step {s t : State} (h : step s = .next t) (k : Nat) :
    Host.Core.run Sys2Proof.core (k + 1) s = Host.Core.run Sys2Proof.core k t :=
  run_succ_of_step (M := Sys2Proof.core) h k

/-- A running request left alone makes one step for each event left and one to return, and has then run what was left of its
expansion (R45). -/
theorem core_run_busy {s : State} {req : Instr} {pos : Nat} {rest : List Micro} (hi : s.inputs = [])
    (hq : s.seq = .busy req pos rest) :
    Host.Core.run Sys2Proof.core ((eventsOf rest).length + 1) s = .next { s.run rest with seq := .idle } := by
  have hstep : step s = .next (advanceWith req pos rest s) := by rw [step_of_inputs_nil s hi, advance_busy s hq]
  obtain ⟨ws, e, ms, hrest, ht⟩ | ⟨ws, hrest, ht⟩ := advanceWith_cases s req pos rest
  · have hlen : (eventsOf rest).length = (eventsOf ms).length + 1 := by simp [hrest]
    have hrun : s.run rest = ((s.writeAll ws).emit e).run ms := by simp [hrest]
    rw [core_run_succ_of_step hstep, ht, hlen, core_run_busy (by simp [hi]) rfl, State.run_withSeq, hrun]
  · have hlen : (eventsOf rest).length = 0 := by simp [hrest]
    rw [core_run_succ_of_step hstep, ht, hlen, hrest, State.run_writes]
    rfl
termination_by (eventsOf rest).length

/-- A request just started at an idle port and left alone ends where running its expansion at once ends (R6, R45). -/
theorem core_run_started {s : State} {req : Instr} {ms : List Micro} (hs : s.seq = .idle) (hi : s.inputs = []) :
    Host.Core.run Sys2Proof.core ((eventsOf ms).length + 1) { s with seq := .busy req 0 ms } = .next (s.run ms) := by
  have hidle : (s.run ms).seq = .idle := by rw [State.run_seq, hs]
  refine (core_run_busy (s := { s with seq := .busy req 0 ms }) hi rfl).trans ?_
  rw [State.run_withSeq, ← hidle]

/-- Posting an encoded request at an idle port presents exactly that request, with no bytes left over (R95, R258). -/
theorem servePost_encode {i : Instr} (hw : i.wellFormed = true) (hs : s.seq = .idle) (later : List Input) :
    servePost (encode i) later s =
      accept i (checkOf i { s with inputs := later }) (bodyOf i { s with inputs := later }) { s with inputs := later } := by
  simp [servePost, hs, decode_encode hw, leftOver]

/-- Posting an encoded request that passes its checks, with nothing else to come, starts it (R258). -/
theorem step_post_accepted {i : Instr} (hw : i.wellFormed = true) (hs : s.seq = .idle) (hi : s.inputs = [])
    (hc : checkOf i s = none) :
    step { s with inputs := [.post (encode i)] } = .next { s with seq := .busy i 0 (bodyOf i s) } := by
  have hback : ({ s with inputs := [] } : State) = s := by rw [← hi]
  have haccept : accept i (checkOf i s) (bodyOf i s) s = { s with seq := .busy i 0 (bodyOf i s) } := by
    simp [accept, hs, hc]
  have hserve := servePost_encode { s with inputs := [.post (encode i)] } hw hs []
  rw [hback, haccept] at hserve
  simp only [step, serveInputs, hserve]

/-- Settles O52: acceptance fixes the expansion that `exec` would run, and the steps after it run exactly that expansion. -/
theorem stepwiseRunEqualsAtomicRun : Obligations.StepwiseRunEqualsAtomicRun := by
  intro s i hw hs hi hc
  rw [exec_accepted s i hs hc]
  exact (core_run_succ_of_step (step_post_accepted s hw hs hi hc) _).trans (core_run_started hs hi)

end Sys2Proof.Machine
end

section
/-! PROOFS. The register writes of an expansion: which ones each request makes, and what a run keeps because none of its
writes touches it. -/

namespace Sys2Proof.Machine

/-! ### The writes of an expansion -/

/-- The register write of an expansion element. -/
def Micro.write? : Micro → Option RegWrite
  | .write w => some w
  | .emit _ => none

/-- The register writes of an expansion, in order; `eventsOf` gives its events. -/
def writesOf (ms : List Micro) : List RegWrite := ms.filterMap Micro.write?

@[simp] theorem writesOf_nil : writesOf [] = [] := rfl
@[simp] theorem writesOf_cons_write (w : RegWrite) (ms : List Micro) : writesOf (.write w :: ms) = w :: writesOf ms := rfl
@[simp] theorem writesOf_cons_emit (e : Event) (ms : List Micro) : writesOf (.emit e :: ms) = writesOf ms := rfl
@[simp] theorem writesOf_append (a b : List Micro) : writesOf (a ++ b) = writesOf a ++ writesOf b := by
  simp [writesOf]
@[simp] theorem writesOf_writes (ws : List RegWrite) : writesOf (writes ws) = ws := by
  induction ws with
  | nil => rfl
  | cons w ws ih => exact congrArg (w :: ·) ih
@[simp] theorem writesOf_emits (es : List Event) : writesOf (emits es) = [] := by
  induction es with
  | nil => rfl
  | cons e es ih => exact ih
@[simp] theorem writesOf_ret (v : Option Byte) : writesOf (ret v) = [.result v] := rfl

/-- A run keeps every field that no event and none of its own writes changes. -/
theorem State.run_field_of_writes {α : Type} (f : State → α) {ms : List Micro}
    (hw : ∀ w ∈ writesOf ms, ∀ t, f (State.write t w) = f t) (he : ∀ t e, f (State.emit t e) = f t) (s : State) :
    f (s.run ms) = f s := by
  induction ms generalizing s with
  | nil => rfl
  | cons m ms ih =>
    cases m with
    | write w =>
      rw [State.run_cons_write, ih fun w' h => hw w' (List.mem_cons_of_mem _ h), hw w List.mem_cons_self]
    | emit e => rw [State.run_cons_emit, ih hw, he]

/-! ### The writes of BEGIN -/

/-- The writes of BEGIN between its first two and the one that makes the lifecycle READY (R172, R179, R181). -/
def beginMiddleWrites (cols rows font : Byte) : List RegWrite :=
  (beginWritesS1 cols rows font).drop 2 ++ beginWritesS7 ++ beginWritesS9

/-- BEGIN's expansion without its first two writes and the two after its last event; `s1`, `s7` and `s9` are the states whose
registers its phases read. -/
def beginMiddleFrom (cols rows font : Byte) (s1 s7 s9 : State) : List Micro :=
  writes ((beginWritesS1 cols rows font).drop 2) ++
    emits (beginS2 s1 ++ beginS3 s1 ++ beginS4 s1 ++ beginS5 s1 ++ beginS6 s1) ++
    writes beginWritesS7 ++ emits (beginS7 s7 ++ beginS8 s7) ++ writes beginWritesS9 ++ emits (beginS9 s9)

/-- That part of the expansion of a BEGIN accepted in state `s`. -/
def beginMiddle (cols rows font : Byte) (s : State) : List Micro :=
  let s1 := s.writeAll (beginWritesS1 cols rows font)
  let s7 := s1.writeAll beginWritesS7
  beginMiddleFrom cols rows font s1 s7 (s7.writeAll beginWritesS9)

@[simp] theorem emits_append (a b : List Event) : emits (a ++ b) = emits a ++ emits b := by simp [emits]

/-- BEGIN makes the lifecycle INITIALIZING first and READY last, after every event (R44, R170). -/
theorem bodyBegin_eq (cols rows font : Byte) (s : State) :
    bodyBegin cols rows font s =
      .write (.lifecycle .initializing) :: .write (.numRows rows.toNat) :: (beginMiddle cols rows font s ++
        writes [.lifecycle .ready, .result none]) := by
  simp [bodyBegin, beginPhases, beginMiddle, beginMiddleFrom, writes, ret, beginWritesS1]

@[simp] theorem writesOf_beginMiddle (cols rows font : Byte) (s : State) :
    writesOf (beginMiddle cols rows font s) = beginMiddleWrites cols rows font := by
  simp [beginMiddle, beginMiddleFrom, beginMiddleWrites]

/-! ### The writes of each request -/

/-- The register writes a request makes before it returns. No state decides them. -/
def regWrites : Instr → List RegWrite
  | .bindCtrl rw en rs => [.pins rw en rs, .ctrlBound]
  | .bindData4 d0 d1 d2 d3 =>
    [.data #v[d0, d1, d2, d3, unused, unused, unused, unused], .dataCount .four, .clr .function maskDL]
  | .bindData8 d0 d1 d2 d3 d4 d5 d6 d7 =>
    [.data #v[d0, d1, d2, d3, d4, d5, d6, d7], .dataCount .eight, .set .function maskDL]
  | .begin cols rows font =>
    [.lifecycle .initializing, .numRows rows.toNat] ++ beginMiddleWrites cols rows font ++ [.lifecycle .ready]
  | .displayOn => [.set .control maskD]
  | .displayOff => [.clr .control maskD]
  | .cursorOn => [.set .control (maskC ||| maskB)]
  | .cursorOff => [.clr .control (maskC ||| maskB)]
  | .autoscrollOn => [.set .entryMode maskS]
  | .autoscrollOff => [.clr .entryMode maskS]
  | .leftToRight => [.set .entryMode maskID]
  | .rightToLeft => [.clr .entryMode maskID]
  | .pulseEnable => []
  | .write4bits _ => []
  | .write8bits _ => []
  | .send _ _ => []
  | .command _ => []
  | .write _ => []
  | .scrollLeft => []
  | .scrollRight => []
  | .clear => []
  | .home => []
  | .setCursor _ _ => []
  | .createChar _ _ _ _ _ _ _ _ _ => []
  | .print _ _ => []

/-- Every expansion makes the request's writes and then returns a value (R48). -/
theorem bodyOf_eq (i : Instr) (s : State) : ∃ ms v, bodyOf i s = ms ++ ret v ∧ writesOf ms = regWrites i := by
  cases i with
  | begin cols rows font =>
    refine ⟨writes [.lifecycle .initializing, .numRows rows.toNat] ++ beginMiddle cols rows font s ++
      writes [.lifecycle .ready], none, ?_, by simp [regWrites]⟩
    simp [bodyOf, bodyBegin_eq, writes, ret]
  | print n text =>
    by_cases hn : n = 0
    · exact ⟨[], some 0, by simp [bodyOf, bodyPrint, hn], rfl⟩
    · exact ⟨_, _, by simp only [bodyOf, bodyPrint, if_neg hn]; rfl, writesOf_emits _⟩
  | _ => exact ⟨_, _, rfl, by simp [regWrites]⟩

theorem writesOf_bodyOf (i : Instr) (s : State) : ∃ v, writesOf (bodyOf i s) = regWrites i ++ [.result v] := by
  obtain ⟨ms, v, hb, hw⟩ := bodyOf_eq i s
  exact ⟨v, by simp [hb, hw]⟩

/-- A property of all the writes of a request is one of its expansion's writes, if writing the result has it. -/
theorem forall_writesOf_bodyOf {P : RegWrite → Prop} {i : Instr} {s : State} (hi : ∀ w ∈ regWrites i, P w)
    (hr : ∀ v, P (.result v)) : ∀ w ∈ writesOf (bodyOf i s), P w := by
  obtain ⟨v, hv⟩ := writesOf_bodyOf i s
  simpa [hv, or_imp, forall_and] using ⟨hi, hr v⟩

/-- A request's result is the value its expansion returns, whatever it was run from (R48). -/
theorem result_run_bodyOf (i : Instr) (s t u : State) : (t.run (bodyOf i s)).result = (u.run (bodyOf i s)).result := by
  obtain ⟨ms, v, hb, -⟩ := bodyOf_eq i s
  simp [hb]

/-! ### What kinds of writes keep -/

/-- The write touches no pin, no binding and not DL (R41, R42). -/
def RegWrite.keepsBus : RegWrite → Bool
  | .set r m => r != .function || !m.getLsbD 4
  | .clr r m => r != .function || !m.getLsbD 4
  | .numRows _ => true
  | .rowOffset _ => true
  | .pins _ _ _ => false
  | .ctrlBound => false
  | .data _ => false
  | .dataCount _ => false
  | .lifecycle _ => true
  | .result _ => true

/-- The write touches neither the lifecycle nor the row count (R44, R36). -/
def RegWrite.keepsPhase : RegWrite → Bool
  | .set _ _ => true
  | .clr _ _ => true
  | .numRows _ => false
  | .rowOffset _ => true
  | .pins _ _ _ => true
  | .ctrlBound => true
  | .data _ => true
  | .dataCount _ => true
  | .lifecycle _ => false
  | .result _ => true

/-- The bits of a configuration byte that `OnlyBindingsChangeThePinMap` calls unnamed: all but N, F and DL; D, C and B; ID
and S (R32 to R34). -/
def ConfReg.unnamed : ConfReg → Byte
  | .function => 0xE3
  | .control => 0xF8
  | .entryMode => 0xFC

/-- The write masks named bits only (R35). -/
def RegWrite.namedOnly : RegWrite → Bool
  | .set r m => m &&& r.unnamed == 0
  | .clr r m => m &&& r.unnamed == 0
  | .numRows _ => true
  | .rowOffset _ => true
  | .pins _ _ _ => true
  | .ctrlBound => true
  | .data _ => true
  | .dataCount _ => true
  | .lifecycle _ => true
  | .result _ => true

/-- The pin map, the bindings and DL: what a non-binding request keeps (R42). -/
def State.bus (s : State) : Byte × Byte × Byte × Bool × Vector Byte 8 × DataCount × Bool :=
  (s.pinRW, s.pinEN, s.pinRS, s.ctrlBound, s.data, s.dataCount, s.dl)

theorem State.write_bus {w : RegWrite} (h : w.keepsBus = true) (s : State) : (s.write w).bus = s.bus := by
  cases w with
  | set r m => cases r <;> simp_all [RegWrite.keepsBus, State.bus, State.dl]
  | clr r m => cases r <;> simp_all [RegWrite.keepsBus, State.bus, State.dl]
  | _ => simp_all [RegWrite.keepsBus, State.bus, State.dl]

theorem RegWrite.ne_lifecycle {w : RegWrite} (h : w.keepsPhase = true) (l : Lifecycle) : w ≠ .lifecycle l := by
  rintro rfl
  cases h

theorem State.write_lifecycle_of_ne {w : RegWrite} (h : ∀ l, w ≠ .lifecycle l) (s : State) :
    (s.write w).lifecycle = s.lifecycle := by
  cases w with
  | lifecycle l => exact absurd rfl (h l)
  | set r m => cases r <;> rfl
  | clr r m => cases r <;> rfl
  | _ => rfl

theorem State.write_numRows_of_keepsPhase {w : RegWrite} (h : w.keepsPhase = true) (s : State) :
    (s.write w).numRows = s.numRows := by
  cases w with
  | numRows n => cases h
  | set r m => cases r <;> rfl
  | clr r m => cases r <;> rfl
  | _ => rfl

/-- Setting bits outside `u` keeps the bits in `u`. -/
theorem setBits_and {m u : Byte} (h : m &&& u = 0) (x : Byte) : setBits x m &&& u = x &&& u := by
  rw [setBits, BitVec.and_or_distrib_right, h]
  simp

/-- Clearing bits outside `u` keeps the bits in `u`. -/
theorem clrBits_and {m u : Byte} (h : m &&& u = 0) (x : Byte) : clrBits x m &&& u = x &&& u := by
  refine BitVec.eq_of_getLsbD_eq fun k hk => ?_
  have hbit : (m.getLsbD k && u.getLsbD k) = false := by simp [← BitVec.getLsbD_and, h]
  cases hm : m.getLsbD k <;> simp_all [clrBits]

theorem State.putConf_conf (s : State) (v : Byte) (q r : ConfReg) :
    (s.putConf v q).conf r = if q = r then v else s.conf r := by
  cases q <;> cases r <;> rfl

theorem State.write_unnamed {w : RegWrite} (h : w.namedOnly = true) (r : ConfReg) (s : State) :
    (s.write w).conf r &&& r.unnamed = s.conf r &&& r.unnamed := by
  cases w with
  | set q m =>
    rw [State.write, State.putConf_conf]
    split
    next hqr =>
      subst hqr
      exact setBits_and (by simpa [RegWrite.namedOnly] using h) _
    next => rfl
  | clr q m =>
    rw [State.write, State.putConf_conf]
    split
    next hqr =>
      subst hqr
      exact clrBits_and (by simpa [RegWrite.namedOnly] using h) _
    next => rfl
  | _ => rfl

/-! ### What each request's writes are -/

theorem beginMiddleWrites_kinds (cols rows font : Byte) : ∀ w ∈ beginMiddleWrites cols rows font,
    w.keepsBus = true ∧ w.keepsPhase = true ∧ w.namedOnly = true := by
  have hS1 : ∀ w ∈ (beginWritesS1 cols rows font).drop 2,
      w = .rowOffset (rowTable cols) ∨ w = .set .function maskN ∨ w = .set .function maskF := by
    intro w hw
    simp only [beginWritesS1, List.cons_append, List.nil_append, List.drop_succ_cons, List.drop_zero, List.mem_cons,
      List.mem_append] at hw
    split_ifs at hw <;> simp only [List.mem_cons, List.not_mem_nil, or_false] at hw <;> tauto
  intro w hw
  simp only [beginMiddleWrites, beginWritesS7, beginWritesS9, List.mem_append, List.mem_cons, List.not_mem_nil,
    or_false] at hw
  obtain (hw | rfl | rfl | rfl) | rfl | rfl := hw
  · obtain rfl | rfl | rfl := hS1 w hw <;> exact ⟨rfl, rfl, rfl⟩
  all_goals exact ⟨rfl, rfl, rfl⟩

/-- Every write of a request masks named bits only (R35). -/
theorem regWrites_namedOnly (i : Instr) : ∀ w ∈ regWrites i, w.namedOnly = true := by
  cases i with
  | begin cols rows font =>
    have hmid := fun w hw => (beginMiddleWrites_kinds cols rows font w hw).2.2
    simpa [regWrites, or_imp, forall_and, RegWrite.namedOnly] using hmid
  | _ => simp [regWrites, RegWrite.namedOnly] <;> decide

/-- Only bindings write to the pin map, `dataCount` or DL (R42). -/
theorem regWrites_keepsBus {i : Instr} (h : isBinding i = false) : ∀ w ∈ regWrites i, w.keepsBus = true := by
  cases i with
  | bindCtrl | bindData4 | bindData8 => cases h
  | begin cols rows font =>
    have hmid := fun w hw => (beginMiddleWrites_kinds cols rows font w hw).1
    simpa [regWrites, or_imp, forall_and, RegWrite.keepsBus] using hmid
  | _ => simp [regWrites] <;> decide

/-- Only BEGIN writes the lifecycle and the row count (R44, R36). -/
theorem regWrites_keepsPhase {i : Instr} (h : ∀ cols rows font, i ≠ .begin cols rows font) :
    ∀ w ∈ regWrites i, w.keepsPhase = true := by
  cases i with
  | begin cols rows font => exact absurd rfl (h cols rows font)
  | _ => simp [regWrites, RegWrite.keepsPhase]

/-- No request writes CONSTRUCTED (R280). -/
theorem regWrites_ne_constructed (i : Instr) : ∀ w ∈ regWrites i, w ≠ .lifecycle .constructed := by
  cases i with
  | begin cols rows font =>
    have hmid : ∀ w ∈ beginMiddleWrites cols rows font, w ≠ .lifecycle .constructed := by
      rintro _ hw rfl
      exact absurd (beginMiddleWrites_kinds cols rows font _ hw).2.1 (by decide)
    simpa [regWrites, or_imp, forall_and] using hmid
  | _ => simp [regWrites]

end Sys2Proof.Machine
end

section
/-! PROOFS. What running a request's expansion keeps: the pin map and the lines' replay, the unnamed bits, the lifecycle and
the row count; and that the pin map is the bindings' alone. -/

namespace Sys2Proof.Machine

variable (s : State)

/-! ### What a run keeps, by the kinds of its writes -/

theorem State.run_bus {ms : List Micro} (h : ∀ w ∈ writesOf ms, w.keepsBus = true) : (s.run ms).bus = s.bus :=
  State.run_field_of_writes _ (fun w hw => State.write_bus (h w hw)) (fun _ _ => rfl) s

theorem State.run_unnamed {ms : List Micro} (h : ∀ w ∈ writesOf ms, w.namedOnly = true) (r : ConfReg) :
    (s.run ms).conf r &&& r.unnamed = s.conf r &&& r.unnamed :=
  State.run_field_of_writes (fun t => t.conf r &&& r.unnamed) (fun w hw => State.write_unnamed (h w hw) r)
    (fun _ _ => by cases r <;> rfl) s

theorem State.run_lifecycle {ms : List Micro} (h : ∀ w ∈ writesOf ms, ∀ l, w ≠ .lifecycle l) :
    (s.run ms).lifecycle = s.lifecycle :=
  State.run_field_of_writes _ (fun w hw => State.write_lifecycle_of_ne (h w hw)) (fun _ _ => rfl) s

theorem State.run_numRows {ms : List Micro} (h : ∀ w ∈ writesOf ms, w.keepsPhase = true) :
    (s.run ms).numRows = s.numRows :=
  State.run_field_of_writes _ (fun w hw => State.write_numRows_of_keepsPhase (h w hw)) (fun _ _ => rfl) s

/-- The pin map is part of what `bus` holds; with the parameters it is all that resolving a role reads (R59). -/
theorem State.sameMap_of_bus {s t : State} (hb : s.bus = t.bus) (hc : s.cfg = t.cfg) : s.SameMap t := by
  simp only [State.bus, Prod.mk.injEq] at hb
  obtain ⟨hrw, hen, hrs, -, hdata, hcount, -⟩ := hb
  exact ⟨hrw, hen, hrs, hdata, hcount, hc⟩

theorem State.run_sameMap {ms : List Micro} (h : ∀ w ∈ writesOf ms, w.keepsBus = true) : (s.run ms).SameMap s :=
  State.sameMap_of_bus (s.run_bus h) (s.run_cfg ms)

theorem State.run_ctrlBound {ms : List Micro} (h : ∀ w ∈ writesOf ms, w.keepsBus = true) :
    (s.run ms).ctrlBound = s.ctrlBound := by
  have hb := s.run_bus h
  simp_all [State.bus]

theorem State.run_dl {ms : List Micro} (h : ∀ w ∈ writesOf ms, w.keepsBus = true) : (s.run ms).dl = s.dl := by
  have hb := s.run_bus h
  simp_all [State.bus]

/-- An expansion that keeps the pin map leaves the lines its events make (R53). -/
theorem State.run_lines {ms : List Micro} (h : ∀ w ∈ writesOf ms, w.keepsBus = true) :
    (s.run ms).lines = s.replay s.lines (eventsOf ms) := by
  induction ms generalizing s with
  | nil => rfl
  | cons m ms ih =>
    cases m with
    | write w =>
      have hmap : (s.write w).SameMap s :=
        State.sameMap_of_bus (State.write_bus (h w List.mem_cons_self) s) (s.write_cfg w)
      rw [State.run_cons_write, ih _ fun w' hw => h w' (List.mem_cons_of_mem _ hw), hmap.replay, State.write_lines]
      rfl
    | emit e =>
      have hmap : (s.emit e).SameMap s := ⟨rfl, rfl, rfl, rfl, rfl, rfl⟩
      rw [State.run_cons_emit, ih _ h, hmap.replay]
      rfl

/-! ### What a request's expansion keeps -/

theorem bodyOf_keepsBus (a : State) {i : Instr} (h : isBinding i = false) : ∀ w ∈ writesOf (bodyOf i a), w.keepsBus = true :=
  forall_writesOf_bodyOf (regWrites_keepsBus h) fun _ => rfl

theorem bodyOf_keepsPhase (a : State) {i : Instr} (h : ∀ cols rows font, i ≠ .begin cols rows font) :
    ∀ w ∈ writesOf (bodyOf i a), w.keepsPhase = true :=
  forall_writesOf_bodyOf (regWrites_keepsPhase h) fun _ => rfl

/-- Only BEGIN changes the lifecycle (R44). -/
theorem run_bodyOf_lifecycle (a : State) {i : Instr} (h : ∀ cols rows font, i ≠ .begin cols rows font) {p q : List Micro}
    (hp : bodyOf i a = p ++ q) : (s.run p).lifecycle = s.lifecycle := by
  have hphase := bodyOf_keepsPhase a h
  rw [hp, writesOf_append] at hphase
  exact s.run_lifecycle fun w hw => RegWrite.ne_lifecycle (hphase w (List.mem_append_left _ hw))

theorem bodyOf_namedOnly (i : Instr) (a : State) : ∀ w ∈ writesOf (bodyOf i a), w.namedOnly = true :=
  forall_writesOf_bodyOf (regWrites_namedOnly i) fun _ => rfl

/-- No part of an expansion leads to CONSTRUCTED (R280). -/
theorem bodyOf_ne_constructed (i : Instr) (a : State) : ∀ w ∈ writesOf (bodyOf i a), w ≠ .lifecycle .constructed :=
  forall_writesOf_bodyOf (regWrites_ne_constructed i) (by simp)

/-- Settles O44: a refusal changes no register, and an accepted request's writes are of the kinds that keep these. -/
theorem onlyBindingsChangeThePinMap : Obligations.OnlyBindingsChangeThePinMap := by
  intro s t i h
  obtain ⟨r, rfl⟩ | ⟨-, -, rfl⟩ := exec_cases s h
  · exact ⟨fun _ => ⟨rfl, rfl, rfl, rfl, rfl, rfl, rfl⟩, rfl, rfl, rfl, rfl⟩
  · have hbits := s.run_unnamed (bodyOf_namedOnly i s)
    refine ⟨fun hi => ?_, hbits .function, hbits .control, hbits .entryMode, s.run_cfg _⟩
    simpa [State.bus] using s.run_bus (bodyOf_keepsBus s hi)

end Sys2Proof.Machine
end

section
/-! PROOFS. What a request reads: its checks and its expansion are functions of the registers alone, so no line, no event, no
refusal and no earlier result comes back into the engine (R46, R52). -/

namespace Sys2Proof.Machine

/-- The registers a request reads, in a state whose other fields are as at construction. -/
def State.registers (s : State) : State :=
  { s with seq := .idle, refused := false, lastRefusal := none, result := none, lines := Lines.reset, trace := [],
           inputs := [] }

/-- A write makes equal registers of equal registers. -/
theorem State.write_registers_congr {s t : State} (h : s.registers = t.registers) (w : RegWrite) :
    (s.write w).registers = (t.write w).registers := by
  have hreg : ∀ u : State, (u.registers.write w).registers = (u.write w).registers := by
    intro u
    cases w with | set r _ => cases r <;> rfl | clr r _ => cases r <;> rfl | _ => rfl
  rw [← hreg s, h, hreg t]

theorem State.writeAll_registers_congr {s t : State} (h : s.registers = t.registers) (ws : List RegWrite) :
    (s.writeAll ws).registers = (t.writeAll ws).registers := by
  induction ws generalizing s t with
  | nil => exact h
  | cons w ws ih => exact ih (State.write_registers_congr h w)

/-- A request's checks read the registers only (R252). -/
theorem checkOf_registers (i : Instr) (s : State) : checkOf i s.registers = checkOf i s := by
  cases i <;> rfl

theorem beginMiddleFrom_registers (cols rows font : Byte) (s1 s7 s9 : State) :
    beginMiddleFrom cols rows font s1.registers s7.registers s9.registers = beginMiddleFrom cols rows font s1 s7 s9 := rfl

/-- The phases of BEGIN read the registers as the writes before them left them. -/
theorem beginMiddle_registers (cols rows font : Byte) (s : State) :
    beginMiddle cols rows font s.registers = beginMiddle cols rows font s := by
  have h1 : (s.registers.writeAll (beginWritesS1 cols rows font)).registers =
      (s.writeAll (beginWritesS1 cols rows font)).registers :=
    State.writeAll_registers_congr (s := s.registers) (t := s) rfl _
  have h7 := State.writeAll_registers_congr h1 beginWritesS7
  have h9 := State.writeAll_registers_congr h7 beginWritesS9
  rw [beginMiddle, ← beginMiddleFrom_registers, h1, h7, h9, beginMiddleFrom_registers]
  rfl

/-- A request's expansion is made of the registers only (R45, R46). -/
theorem bodyOf_registers (i : Instr) (s : State) : bodyOf i s.registers = bodyOf i s := by
  cases i with
  | begin cols rows font => simp only [bodyOf, bodyBegin_eq, beginMiddle_registers]
  | print n text =>
    have hsend : send s.registers = send s := rfl
    simp only [bodyOf, bodyPrint, printLoop_eq, hsend]
  | _ => rfl

theorem checkOf_congr {s t : State} (h : s.registers = t.registers) (i : Instr) : checkOf i s = checkOf i t := by
  rw [← checkOf_registers i s, h, checkOf_registers]

theorem bodyOf_congr {s t : State} (h : s.registers = t.registers) (i : Instr) : bodyOf i s = bodyOf i t := by
  rw [← bodyOf_registers i s, h, bodyOf_registers]

/-! ### Two states that differ in what no request reads -/

theorem State.SameInputs.registers {s u : State} (h : s.SameInputs u) : s.registers = u.registers := by
  rw [h]; rfl

theorem State.SameInputs.write {s u : State} (h : s.SameInputs u) (w : RegWrite) : (s.write w).SameInputs (u.write w) := by
  rw [h]
  cases w with | set r _ => cases r <;> rfl | clr r _ => cases r <;> rfl | _ => rfl

theorem State.SameInputs.emit {s u : State} (h : s.SameInputs u) (e : Event) : (s.emit e).SameInputs (u.emit e) := by
  rw [h]; rfl

theorem State.SameInputs.refuse {s u : State} (h : s.SameInputs u) (r : Reason) (bytes : List Byte) :
    (s.refuse r bytes).SameInputs (u.refuse r bytes) := by
  rw [h]; rfl

theorem State.SameInputs.run {s u : State} (h : s.SameInputs u) (ms : List Micro) : (s.run ms).SameInputs (u.run ms) := by
  induction ms generalizing s u with
  | nil => exact h
  | cons m ms ih =>
    cases m with
    | write w => exact ih (h.write w)
    | emit e => exact ih (h.emit e)

/-- The events of a run are its expansion's, whatever came before (R14). -/
theorem newEvents_run (s : State) (ms : List Micro) : newEvents s (s.run ms) = eventsOf ms := by
  simp [newEvents]

/-- A refusal emits nothing (R251). -/
theorem newEvents_refuse (s : State) (r : Reason) (bytes : List Byte) : newEvents s (s.refuse r bytes) = [] := by
  simp [newEvents]

/-- Settles O45: both states make the same checks and run the same expansion, and a run carries the relation along. -/
theorem engineNeverReadsBack : Obligations.EngineNeverReadsBack := by
  intro s u s' i h hexec
  have hcheck : checkOf i u = checkOf i s := (checkOf_congr h.registers i).symm
  have hbody : bodyOf i u = bodyOf i s := (bodyOf_congr h.registers i).symm
  have hseq : u.seq = s.seq := by rw [h]
  cases hs : s.seq with
  | busy req pos rest =>
    rw [exec_busy s i hs] at hexec
    obtain rfl := Host.Outcome.next.inj hexec
    refine ⟨_, exec_busy u i (hseq.trans hs), h.refuse _ _, ?_, fun hi => by simp at hi⟩
    rw [newEvents_refuse, newEvents_refuse]
  | idle =>
    cases hc : checkOf i s with
    | some r =>
      rw [exec_refused s i hs hc] at hexec
      obtain rfl := Host.Outcome.next.inj hexec
      refine ⟨_, exec_refused u i (hseq.trans hs) (hcheck.trans hc), h.refuse _ _, ?_, fun _ hn => by simp at hn⟩
      rw [newEvents_refuse, newEvents_refuse]
    | none =>
      rw [exec_accepted s i hs hc] at hexec
      obtain rfl := Host.Outcome.next.inj hexec
      refine ⟨_, exec_accepted u i (hseq.trans hs) (hcheck.trans hc), ?_, ?_, fun _ _ => ⟨?_, u.run_refused _⟩⟩
      · rw [hbody]
        exact h.run _
      · rw [newEvents_run, newEvents_run, hbody]
      · rw [hbody]
        exact result_run_bodyOf i s u s

end Sys2Proof.Machine
end

section
/-! PROOFS. Single steps: construction, the sticky mark, the position of a running request, and engines side by side. -/

namespace Sys2Proof.Machine

/-- Settles O1: construction writes the reset table out. -/
theorem constructionGivesResetValues : Obligations.ConstructionGivesResetValues :=
  fun _ => ⟨[], [], rfl⟩

/-- Settles O10: of the four things a step does only a refusal touches the mark, and it sets it. -/
theorem refusedMarkIsSticky : Obligations.RefusedMarkIsSticky := by
  intro s t h hr
  obtain ⟨inp, -, rfl⟩ | ⟨_, _, inp, r, bytes, -, -, rfl⟩ | ⟨i, inp, -, -, rfl⟩ | ⟨i, inp, -, -, rfl⟩ := step_cases h
  · rw [advance_refused]
    exact hr
  · rfl
  · rw [State.run_refused]
    exact hr
  · exact hr

/-- A host that lets the block go on by itself for a step has used up that input and does nothing else (R258). -/
theorem step_of_inputs_wait {s : State} {later : List Input} (h : s.inputs = .wait :: later) :
    step s = .next ({ s with inputs := later } : State).advance := by
  simp [step, serveInputs, h]

/-- Settles O51: what going on does to the position and the trace, whether the host waits or does nothing. -/
theorem positionGrowsByOneWithEachEvent : Obligations.PositionGrowsByOneWithEachEvent := by
  intro s t req pos rest hs hin hstep
  have hadv : ∃ inp, t = ({ s with inputs := inp } : State).advance := by
    obtain hnil | ⟨later, hwait⟩ := hin
    · rw [step_of_inputs_nil s hnil] at hstep
      exact ⟨s.inputs, (Host.Outcome.next.inj hstep).symm⟩
    · rw [step_of_inputs_wait hwait] at hstep
      exact ⟨later, (Host.Outcome.next.inj hstep).symm⟩
  obtain ⟨inp, rfl⟩ := hadv
  obtain ⟨e, ms, hq, ht⟩ | hidle := advance_trace_cases { s with inputs := inp } hs
  · exact .inl ⟨e, ms, hq, ht⟩
  · exact .inr hidle

/-- What a step of engine `k` makes of another engine: it has observed some events, or nothing happened (R61, R272). -/
theorem stepAt_getElem?_of_ne {y z : System} {k j : Nat} {u : State} (h : System.stepAt k y = .next z) (hj : j ≠ k)
    (hu : y.engines[j]? = some u) : ∃ es, z.engines[j]? = some (u.observe es) := by
  simp only [System.stepAt] at h
  split at h
  · obtain rfl := Host.Outcome.next.inj h
    exact ⟨[], hu⟩
  · split at h
    · obtain rfl := Host.Outcome.next.inj h
      exact ⟨_, by rw [replaceAt_getElem?, hu, Option.map_some, if_neg (by omega)]⟩
    · cases h
    · cases h

/-- Settles O55: another engine observes events, and observing changes the lines only. -/
theorem instancesAreIndependent : Obligations.InstancesAreIndependent := by
  intro y z k j u h hj hu
  obtain ⟨es, hz⟩ := stepAt_getElem?_of_ne h hj hu
  exact ⟨_, hz, rfl⟩

end Sys2Proof.Machine
end

section
/-! PROOFS. The invariant of an idle engine: it holds at construction and every accepted request's expansion keeps it. -/

namespace Sys2Proof.Machine

/-! ### What an accepted request has passed -/

@[simp] theorem firstReason_cons_eq_none (holds : Bool) (r : Reason) (rest : List (Bool × Reason)) :
    firstReason ((holds, r) :: rest) = none ↔ holds = false ∧ firstReason rest = none := by
  cases holds <;> simp [firstReason]

@[simp] theorem firstReason_nil : firstReason [] = none := rfl

@[simp] theorem State.notBegun_eq_false (s : State) : s.notBegun = false ↔ s.lifecycle = .ready := by
  simp [State.notBegun]

@[simp] theorem State.rebindAfterBegin_eq_false (s : State) : s.rebindAfterBegin = false ↔ s.lifecycle = .constructed := by
  simp [State.rebindAfterBegin]

/-- A request that needs a BEGIN is accepted only when the lifecycle is READY (R140). -/
theorem ready_of_accepted {i : Instr} {s : State} (hn : needsBegin i = true) (hc : checkOf i s = none) :
    s.lifecycle = .ready := by
  by_contra hready
  have hbus := checkBus_notReady s hready
  cases i with
  | bindCtrl | bindData4 | bindData8 | begin => cases hn
  | write8bits v => simp [checkOf, checkWrite8bits, hready] at hc
  | send v mode => simp [checkOf, checkSend, hready] at hc
  | _ => exact absurd (hbus.symm.trans hc) (by simp)

/-- What BEGIN has checked (R170, R252). -/
theorem begin_accepted {cols rows font : Byte} {s : State} (hc : checkOf (.begin cols rows font) s = none) :
    (1 ≤ rows.toNat ∧ rows.toNat ≤ 4) ∧ s.ctrlBound = true ∧ s.dataCount ≠ .zero ∧ s.aliasFree = true := by
  have h : badRows rows = false ∧ s.notBound = false ∧ s.aliasFree = true := by simpa [checkOf, checkBegin] using hc
  obtain ⟨hrows, hbound, halias⟩ := h
  simp only [badRows, Bool.not_eq_false', Bool.and_eq_true, decide_eq_true_eq] at hrows
  simp only [State.notBound, Bool.or_eq_false_iff, Bool.not_eq_false', beq_eq_false_iff_ne] at hbound
  exact ⟨hrows, hbound.1, hbound.2, halias⟩

/-! ### Driven lines -/

theorem mem_dataLines (s : State) (i : Fin 8) : i ∈ s.dataLines ↔ i.val < s.dataCount.count := by
  cases h : s.dataCount <;> simp only [State.dataLines, h] <;> revert i <;> decide

/-- No event takes a line back from driven (R53). -/
theorem lineStep_isDriven (s : State) {ls : Lines} {r : Role} (h : (ls.get r).isDriven = true) (e : Event) :
    ((s.lineStep ls e).get r).isDriven = true := by
  cases e with
  | enableClock p => exact h
  | delayMs n => exact h
  | configureOutput p q =>
    have hconf : ∀ l : Level, l.isDriven = true → l.configured.isDriven = true := by
      intro l hl
      cases l <;> exact hl
    have hget := foldRoles_get (fun q' => s.resolve q' = (p, q)) Level.configured (by intro l; cases l <;> rfl)
      s.activeRoles ls r
    refine (congrArg Level.isDriven hget).trans ?_
    split
    · exact hconf _ h
    · exact h
  | setLevel q p pin b =>
    by_cases hq : r = q
    · subst hq
      simp [State.lineStep, Level.isDriven]
    · rw [State.lineStep, Lines.get_put_of_ne _ _ hq]
      exact h

theorem replay_isDriven (s : State) {ls : Lines} {r : Role} (h : (ls.get r).isDriven = true) (es : List Event) :
    ((s.replay ls es).get r).isDriven = true := by
  induction es generalizing ls with
  | nil => exact h
  | cons e es ih => exact ih (lineStep_isDriven s h e)

/-- A transmitted byte leaves every wired line driven (R152). -/
theorem linesAfter_isDriven (s : State) (rs : Bool) (v : Byte) (ls : Lines) {r : Role} (h : r ∈ s.activeRoles) :
    ((s.linesAfter rs v ls).get r).isDriven = true := by
  cases r with
  | rs => rfl
  | en => rfl
  | rw =>
    have hw : s.wiredRW = true := by simpa [State.activeRoles] using h
    simp [State.linesAfter, Lines.get, hw, Level.isDriven]
  | d i =>
    have hi : i.val < s.dataCount.count := by
      rw [← mem_dataLines]
      simpa [State.activeRoles] using h
    simp [State.linesAfter, Lines.get, hi, Level.isDriven]

/-! ### Parts of the invariant that the pin map decides -/

theorem State.pinOK_congr {s t : State} (h : t.cfg = s.cfg) : t.pinOK = s.pinOK := by
  funext p
  simp [State.pinOK, h]

section SameMap

variable {s t : State} (h : t.SameMap s)
include h

theorem State.SameMap.rwPinOK : t.rwPinOK = s.rwPinOK := by
  funext p
  simp [State.rwPinOK, State.pinOK_congr h.cfg]

theorem State.SameMap.pinsOk (hb : t.ctrlBound = s.ctrlBound) (hs : s.PinsOk) : t.PinsOk := by
  rw [State.PinsOk, hb, State.pinOK_congr h.cfg, h.rwPinOK, h.pinEN, h.pinRS, h.pinRW]
  exact hs

theorem State.SameMap.dataOk (hs : s.DataOk) : t.DataOk := by
  rw [State.DataOk, State.pinOK_congr h.cfg, h.dataCount, h.data]
  exact hs

theorem State.SameMap.modeOk (hdl : t.dl = s.dl) (hs : s.ModeOk) : t.ModeOk := by
  rw [State.ModeOk, h.dataCount, hdl]
  exact hs

end SameMap

/-- The reserved bits are unnamed bits, so writes of named bits keep them 0 (R32 to R34). -/
theorem State.run_reservedOk {s : State} {ms : List Micro} (h : ∀ w ∈ writesOf ms, w.namedOnly = true)
    (hs : s.ReservedOk) : (s.run ms).ReservedOk := by
  obtain ⟨hf, hc, he⟩ := hs
  exact ⟨(s.run_unnamed h .function).trans hf, (s.run_unnamed h .control).trans hc, (s.run_unnamed h .entryMode).trans he⟩

/-! ### Requests that end in READY -/

/-- An expansion that keeps the pin map and ends in READY, with a legal row count, everything bound and every wired line
driven, keeps the invariant. -/
theorem State.IdleInv.run_ready {s : State} {ms : List Micro} (hs : s.IdleInv)
    (hbus : ∀ w ∈ writesOf ms, w.keepsBus = true) (hnamed : ∀ w ∈ writesOf ms, w.namedOnly = true)
    (hready : (s.run ms).lifecycle = .ready) (hrows : 1 ≤ (s.run ms).numRows ∧ (s.run ms).numRows ≤ 4)
    (hbound : s.ctrlBound = true ∧ s.dataCount ≠ .zero ∧ s.aliasFree = true)
    (hdriven : ∀ r ∈ s.activeRoles, ((s.run ms).lines.get r).isDriven = true) : (s.run ms).IdleInv := by
  have hmap := s.run_sameMap hbus
  have hnc : (s.run ms).lifecycle ≠ .constructed := by simp [hready]
  exact {
    idle := (s.run_seq ms).trans hs.idle
    cfg := by rw [State.run_cfg]; exact hs.cfg
    settled := by simp [hready]
    reserved := State.run_reservedOk hnamed hs.reserved
    rows := ⟨fun hl => absurd hl hnc, fun _ => hrows⟩
    mode := hmap.modeOk (s.run_dl hbus) hs.mode
    pins := hmap.pinsOk (s.run_ctrlBound hbus) hs.pins
    data := hmap.dataOk hs.data
    bound := fun _ => by rw [s.run_ctrlBound hbus, hmap.dataCount, hmap.aliasFree]; exact hbound
    lines := by
      refine ⟨?_, fun hl => absurd hl hnc⟩
      rw [hmap.replay, State.run_trace, State.replay_append, hs.lines.1, s.run_lines hbus]
    driven := fun _ => by rw [hmap.activeRoles]; exact hdriven
    mark := by rw [State.run_refused, State.run_lastRefusal]; exact hs.mark }

/-- A request that needs a BEGIN keeps the invariant: it writes display bits only and its events leave driven lines driven. -/
theorem State.IdleInv.run_needsBegin {i : Instr} {s : State} (hs : s.IdleInv) (hn : needsBegin i = true)
    (hc : checkOf i s = none) : (s.run (bodyOf i s)).IdleInv := by
  have hready := ready_of_accepted hn hc
  have hbegin : ∀ cols rows font, i ≠ .begin cols rows font := by
    rintro cols rows font rfl
    cases hn
  have hbinding : isBinding i = false := by
    cases i with
    | bindCtrl | bindData4 | bindData8 => cases hn
    | _ => rfl
  have hbus := bodyOf_keepsBus s hbinding
  have hphase := bodyOf_keepsPhase s hbegin
  have hlife := run_bodyOf_lifecycle s s hbegin (List.append_nil (bodyOf i s)).symm
  refine hs.run_ready hbus (bodyOf_namedOnly i s) (hlife.trans hready) ?_ (hs.bound hready) ?_
  · rw [s.run_numRows hphase]
    exact hs.rows.2 hready
  · intro r hr
    rw [s.run_lines hbus]
    exact replay_isDriven s (hs.driven hready r hr) _

/-! ### BEGIN -/

/-- BEGIN ends in READY with the row count of its operand (R170, R172). -/
theorem run_begin_phase (s t : State) (cols rows font : Byte) :
    (t.run (bodyBegin cols rows font s)).lifecycle = .ready ∧ (t.run (bodyBegin cols rows font s)).numRows = rows.toNat := by
  have hmid : ∀ w ∈ writesOf (beginMiddle cols rows font s), w.keepsPhase = true := by
    rw [writesOf_beginMiddle]
    exact fun w hw => (beginMiddleWrites_kinds cols rows font w hw).2.1
  rw [bodyBegin_eq]
  refine ⟨by simp, ?_⟩
  simpa using State.run_numRows (({ t with lifecycle := .initializing, numRows := rows.toNat } : State)) hmid

/-- The writes BEGIN makes before its last event keep the pin map and DL (R183). -/
theorem begin_writes_keep_bus (s : State) (cols rows font : Byte) :
    (s.writeAll (beginWritesS1 cols rows font ++ beginWritesS7 ++ beginWritesS9)).SameMap s ∧
    (s.writeAll (beginWritesS1 cols rows font ++ beginWritesS7 ++ beginWritesS9)).dl = s.dl := by
  have hbus : ∀ w ∈ writesOf (writes (beginWritesS1 cols rows font ++ beginWritesS7 ++ beginWritesS9)),
      w.keepsBus = true := by
    intro w hw
    rw [writesOf_writes] at hw
    exact regWrites_keepsBus (i := .begin cols rows font) rfl w (List.mem_append_left _ hw)
  rw [← State.run_writes]
  exact ⟨s.run_sameMap hbus, s.run_dl hbus⟩

/-- BEGIN's last events are those of the entry-mode command (R181). -/
theorem eventsOf_begin_send (s : State) (cols rows font : Byte) :
    ∃ es v, eventsOf (bodyBegin cols rows font s) = es ++ send s v false := by
  obtain ⟨hmap, hdl⟩ := begin_writes_keep_bus s cols rows font
  rw [State.writeAll_append, State.writeAll_append] at hmap hdl
  simp only [bodyBegin_eq, beginMiddle, beginMiddleFrom, beginS9, command, send_congr hmap hdl, eventsOf_cons_write,
    eventsOf_append, eventsOf_writes, eventsOf_emits, List.append_nil]
  exact ⟨_, _, rfl⟩

/-- BEGIN keeps the invariant: its checks give the bindings, and its last byte drives every wired line (R128, R141). -/
theorem State.IdleInv.run_begin {cols rows font : Byte} {s : State} (hs : s.IdleInv)
    (hc : checkOf (.begin cols rows font) s = none) : (s.run (bodyOf (.begin cols rows font) s)).IdleInv := by
  obtain ⟨hrows, hbound⟩ := begin_accepted hc
  obtain ⟨hready, hnum⟩ := run_begin_phase s s cols rows font
  obtain ⟨es, v, hes⟩ := eventsOf_begin_send s cols rows font
  have hbus := bodyOf_keepsBus s (i := .begin cols rows font) rfl
  refine hs.run_ready hbus (bodyOf_namedOnly (.begin cols rows font) s) hready (by rwa [bodyOf, hnum]) hbound fun r hr => ?_
  rw [s.run_lines hbus, bodyOf, hes, State.replay_append, replay_send _ _ _ _ hbound.2.1 hs.mode]
  exact linesAfter_isDriven s false v _ hr

/-! ### Bindings -/

/-- A request that only writes the pin map, before any BEGIN, keeps the invariant if the new pin map meets its part. -/
theorem State.IdleInv.of_binding {s t : State} (hs : s.IdleInv) (hl : s.lifecycle = .constructed)
    (hframe : t = { s with function := t.function, pinRW := t.pinRW, pinEN := t.pinEN, pinRS := t.pinRS,
                           ctrlBound := t.ctrlBound, data := t.data, dataCount := t.dataCount, result := t.result })
    (hreserved : t.ReservedOk) (hmode : t.ModeOk) (hpins : t.PinsOk) (hdata : t.DataOk) : t.IdleInv := by
  have hlt : t.lifecycle = .constructed := by rw [hframe]; exact hl
  have hnr : t.lifecycle ≠ .ready := by simp [hlt]
  have htrace : s.trace = [] := hs.lines.2 hl
  have hreset : Lines.reset = s.lines := by simpa [htrace] using hs.lines.1
  have htt : t.trace = [] := by rw [hframe]; exact htrace
  have htl : t.lines = Lines.reset := by rw [hframe]; exact hreset.symm
  exact {
    idle := by rw [hframe]; exact hs.idle
    cfg := by rw [hframe]; exact hs.cfg
    settled := by simp [hlt]
    reserved := hreserved
    rows := ⟨fun _ => by rw [hframe]; exact hs.rows.1 hl, fun h => absurd h hnr⟩
    mode := hmode
    pins := hpins
    data := hdata
    bound := fun h => absurd h hnr
    lines := ⟨by rw [htt, htl]; rfl, fun _ => htt⟩
    driven := fun h => absurd h hnr
    mark := by rw [hframe]; exact hs.mark }

theorem State.IdleInv.run_bindCtrl {rw en rs : Byte} {s : State} (hs : s.IdleInv)
    (hc : checkOf (.bindCtrl rw en rs) s = none) : (s.run (bodyOf (.bindCtrl rw en rs) s)).IdleInv := by
  have h : s.lifecycle = .constructed ∧ (s.pinOK en = true ∧ s.pinOK rs = true) ∧ s.rwPinOK rw = true := by
    simpa [checkOf, checkBindCtrl] using hc
  obtain ⟨hl, ⟨hen, hrs⟩, hrw⟩ := h
  exact hs.of_binding hl rfl hs.reserved hs.mode (fun _ => ⟨hen, hrs, hrw⟩) hs.data

theorem State.IdleInv.run_bindData4 {d0 d1 d2 d3 : Byte} {s : State} (hs : s.IdleInv)
    (hc : checkOf (.bindData4 d0 d1 d2 d3) s = none) : (s.run (bodyOf (.bindData4 d0 d1 d2 d3) s)).IdleInv := by
  have h : s.lifecycle = .constructed ∧
      s.pinOK d0 = true ∧ s.pinOK d1 = true ∧ s.pinOK d2 = true ∧ s.pinOK d3 = true := by
    simpa [checkOf, checkBindData4] using hc
  obtain ⟨hl, h0, h1, h2, h3⟩ := h
  have hdl : (s.run (bodyOf (.bindData4 d0 d1 d2 d3) s)).dl = false := by
    simp [bodyOf, bodyBindData4, State.dl, maskDL]
  refine hs.of_binding hl rfl (State.run_reservedOk (bodyOf_namedOnly _ s) hs.reserved) ⟨fun _ => hdl, ?_⟩ hs.pins ?_
  · intro h
    cases h
  · rw [State.DataOk, State.pinOK_congr (State.run_cfg s _)]
    intro i
    fin_cases i <;> simp [bodyOf, bodyBindData4, DataCount.count, unused, h0, h1, h2, h3]

theorem State.IdleInv.run_bindData8 {d0 d1 d2 d3 d4 d5 d6 d7 : Byte} {s : State} (hs : s.IdleInv)
    (hc : checkOf (.bindData8 d0 d1 d2 d3 d4 d5 d6 d7) s = none) :
    (s.run (bodyOf (.bindData8 d0 d1 d2 d3 d4 d5 d6 d7) s)).IdleInv := by
  have h : s.lifecycle = .constructed ∧
      s.pinOK d0 = true ∧ s.pinOK d1 = true ∧ s.pinOK d2 = true ∧ s.pinOK d3 = true ∧ s.pinOK d4 = true ∧
        s.pinOK d5 = true ∧ s.pinOK d6 = true ∧ s.pinOK d7 = true := by
    simpa [checkOf, checkBindData8] using hc
  obtain ⟨hl, h0, h1, h2, h3, h4, h5, h6, h7⟩ := h
  have hdl : (s.run (bodyOf (.bindData8 d0 d1 d2 d3 d4 d5 d6 d7) s)).dl = true := by
    simp [bodyOf, bodyBindData8, State.dl, maskDL]
  refine hs.of_binding hl rfl (State.run_reservedOk (bodyOf_namedOnly _ s) hs.reserved) ⟨?_, fun _ => hdl⟩ hs.pins ?_
  · intro h
    cases h
  · rw [State.DataOk, State.pinOK_congr (State.run_cfg s _)]
    intro i
    fin_cases i <;> simp [bodyOf, bodyBindData8, DataCount.count, h0, h1, h2, h3, h4, h5, h6, h7]

/-- Every accepted request, run to completion, keeps the invariant of an idle engine. -/
theorem State.IdleInv.run_bodyOf {i : Instr} {s : State} (hs : s.IdleInv) (hc : checkOf i s = none) :
    (s.run (bodyOf i s)).IdleInv := by
  cases i with
  | bindCtrl => exact hs.run_bindCtrl hc
  | bindData4 => exact hs.run_bindData4 hc
  | bindData8 => exact hs.run_bindData8 hc
  | begin => exact hs.run_begin hc
  | _ => exact hs.run_needsBegin rfl hc

/-! ### Construction -/

/-- The constructed state meets the invariant: nothing is bound, driven or emitted. -/
theorem construct_idleInv {c : Config} (h : c.Ok) : (State.construct c).IdleInv where
  idle := rfl
  cfg := h
  settled := by simp [State.construct]
  reserved := by simp [State.ReservedOk, State.construct]
  rows := ⟨fun _ => rfl, nofun⟩
  mode := ⟨nofun, nofun⟩
  pins := nofun
  data := by
    intro i
    refine ⟨fun h => absurd h (Nat.not_lt_zero _), fun _ => ?_⟩
    fin_cases i <;> rfl
  bound := nofun
  lines := ⟨rfl, fun _ => rfl⟩
  driven := nofun
  mark := rfl

/-- Settles O53: a constructed engine is idle, so its invariant is the idle one. -/
theorem constructionMeetsTheInvariant : Obligations.ConstructionMeetsTheInvariant :=
  fun _ h => construct_idleInv h

end Sys2Proof.Machine
end

section
/-! PROOFS. The invariant of a running engine, and what rests on it: every step keeps it, INITIALIZING holds while a BEGIN
runs, and nothing returns to CONSTRUCTED. -/

namespace Sys2Proof.Machine

/-- The state `s` of a running request, as the invariant gives it: `pre`, which is empty or ends with an event, has been run
from the idle state `a` in which the request was accepted, and `rest` is left (R45). -/
structure State.RunsFrom (s a : State) (pre : List Micro) (req : Instr) (pos : Nat) (rest : List Micro) : Prop where
  start : a.IdleInv
  accepted : checkOf req a = none
  body : bodyOf req a = pre ++ rest
  position : pos = (eventsOf pre).length
  last : ∀ w, pre.getLast? ≠ some (.write w)
  state : s = { a.run pre with seq := .busy req pos rest }

theorem State.Inv.idleInv {s : State} (h : s.Inv) (hs : s.seq = .idle) : s.IdleInv := by
  simpa [State.Inv, hs] using h

theorem State.IdleInv.inv {s : State} (h : s.IdleInv) : s.Inv := by
  simpa [State.Inv, h.idle] using h

theorem State.inv_busy {s : State} {req : Instr} {pos : Nat} {rest : List Micro} (h : s.seq = .busy req pos rest) :
    s.Inv ↔ ∃ a pre, s.RunsFrom a pre req pos rest := by
  simp only [State.Inv, h]
  constructor
  · rintro ⟨a, pre, ha, hc, hb, hp, hl, hs⟩
    exact ⟨a, pre, ha, hc, hb, hp, hl, hs⟩
  · rintro ⟨a, pre, ha, hc, hb, hp, hl, hs⟩
    exact ⟨a, pre, ha, hc, hb, hp, hl, hs⟩

/-! ### The port: inputs and refusals -/

/-- The state with other inputs and another refusal mark and record: what serving the port changes besides a request. -/
def State.withPort (s : State) (inp : List Input) (flag : Bool) (record : Option (Reason × List Byte)) : State :=
  { s with inputs := inp, refused := flag, lastRefusal := record }

section Port

variable (s : State) (inp : List Input) (flag : Bool) (record : Option (Reason × List Byte))

theorem State.withPort_refuse (r : Reason) (bytes : List Byte) :
    ({ s with inputs := inp } : State).refuse r bytes = s.withPort inp true (some (r, bytes)) := rfl

/-- Running an expansion and changing the port commute. -/
theorem State.run_withPort (ms : List Micro) : (s.withPort inp flag record).run ms = (s.run ms).withPort inp flag record := by
  induction ms generalizing s with
  | nil => rfl
  | cons m ms ih =>
    cases m with
    | write w =>
      have hw : (s.withPort inp flag record).write w = (s.write w).withPort inp flag record := by
        cases w with | set r _ => cases r <;> rfl | clr r _ => cases r <;> rfl | _ => rfl
      rw [State.run_cons_write, hw, ih, State.run_cons_write]
    | emit e => exact ih (s.emit e)

variable {s flag record}

theorem State.IdleInv.withPort (h : s.IdleInv) (hm : flag = record.isSome) : (s.withPort inp flag record).IdleInv where
  idle := h.idle
  cfg := h.cfg
  settled := h.settled
  reserved := h.reserved
  rows := h.rows
  mode := h.mode
  pins := h.pins
  data := h.data
  bound := h.bound
  lines := h.lines
  driven := h.driven
  mark := hm

/-- The invariant reads the port only in that the mark says whether there is a record. -/
theorem State.Inv.withPort (h : s.Inv) (hm : flag = record.isSome) : (s.withPort inp flag record).Inv := by
  cases hs : s.seq with
  | idle => exact ((h.idleInv hs).withPort inp hm).inv
  | busy req pos rest =>
    obtain ⟨a, pre, ha⟩ := (State.inv_busy hs).1 h
    have hreg : (a.withPort inp flag record).registers = a.registers := rfl
    refine (State.inv_busy (s := s.withPort inp flag record) hs).2 ⟨a.withPort inp flag record, pre, ?_⟩
    exact {
      start := ha.start.withPort inp hm
      accepted := (checkOf_congr hreg req).trans ha.accepted
      body := (bodyOf_congr hreg req).trans ha.body
      position := ha.position
      last := ha.last
      state := by rw [State.run_withPort, ha.state]; rfl }

theorem State.Inv.mark (h : s.Inv) : s.refused = s.lastRefusal.isSome := by
  cases hs : s.seq with
  | idle => exact (h.idleInv hs).mark
  | busy req pos rest =>
    obtain ⟨a, pre, ha⟩ := (State.inv_busy hs).1 h
    have hmark := ha.start.mark
    rw [ha.state]
    simpa using hmark

theorem State.Inv.withInputs (h : s.Inv) : ({ s with inputs := inp } : State).Inv := h.withPort inp h.mark

end Port

/-! ### A running request goes on -/

/-- Going on keeps the invariant: the part run grows up to its next event, or the whole expansion has been run. -/
theorem State.Inv.advance {s : State} (h : s.Inv) : s.advance.Inv := by
  cases hs : s.seq with
  | idle =>
    rw [advance_idle s hs]
    exact h
  | busy req pos rest =>
    obtain ⟨a, pre, ha⟩ := (State.inv_busy hs).1 h
    rw [advance_busy s hs]
    obtain ⟨ws, e, ms, hrest, ht⟩ | ⟨ws, hrest, ht⟩ := advanceWith_cases s req pos rest
    · have hrun : (s.writeAll ws).emit e =
          { a.run (pre ++ (writes ws ++ [.emit e])) with seq := .busy req pos rest } := by
        rw [← run_writes_emit, ha.state, State.run_withSeq, ← State.run_append]
      rw [ht]
      refine (State.inv_busy (req := req) (pos := pos + 1) (rest := ms) rfl).2 ⟨a, pre ++ (writes ws ++ [.emit e]), ?_⟩
      exact {
        start := ha.start
        accepted := ha.accepted
        body := by rw [ha.body, hrest]; simp
        position := by simp [ha.position]
        last := by simp
        state := by rw [hrun] }
    · have hrun : advanceWith req pos rest s = a.run (bodyOf req a) := by
        rw [ht, ← State.run_writes, ← hrest, ha.state, State.run_withSeq, ha.body, State.run_append]
        have hidle : ((a.run pre).run rest).seq = .idle := by rw [State.run_seq, State.run_seq, ha.start.idle]
        rw [← hidle]
      rw [hrun]
      exact (ha.start.run_bodyOf ha.accepted).inv

/-- A request just accepted has run no part of its expansion. -/
theorem State.IdleInv.started {i : Instr} {s : State} (h : s.IdleInv) (hc : checkOf i s = none) :
    ({ s with seq := .busy i 0 (bodyOf i s) } : State).Inv :=
  (State.inv_busy rfl).2 ⟨s, [], h, hc, rfl, rfl, by simp, rfl⟩

/-- Settles O54: each of the four things a step does keeps the invariant. -/
theorem stepKeepsTheInvariant : Obligations.StepKeepsTheInvariant := by
  intro s t h hstep
  obtain ⟨inp, -, rfl⟩ | ⟨_, _, inp, r, bytes, -, -, rfl⟩ | ⟨i, inp, hs, hc, rfl⟩ | ⟨i, inp, hs, hc, rfl⟩ := step_cases hstep
  · exact (h.withInputs inp).advance
  · rw [State.withPort_refuse]
    exact h.withPort inp rfl
  · exact (((h.withInputs inp).idleInv hs).run_bodyOf hc).inv
  · exact ((h.withInputs inp).idleInv hs).started hc

/-! ### The lifecycle -/

/-- A run that does not write CONSTRUCTED ends there only if it started there (R280). -/
theorem constructed_of_run {ms : List Micro} (h : ∀ w ∈ writesOf ms, w ≠ .lifecycle .constructed) {s : State}
    (ht : (s.run ms).lifecycle = .constructed) : s.lifecycle = .constructed := by
  induction ms generalizing s with
  | nil => exact ht
  | cons m ms ih =>
    cases m with
    | emit e => exact ih (s := s.emit e) h ht
    | write w =>
      have hw := ih (s := s.write w) (fun w' hw' => h w' (List.mem_cons_of_mem _ hw')) ht
      by_cases hl : ∃ l, w = .lifecycle l
      · obtain ⟨l, rfl⟩ := hl
        exact absurd (congrArg RegWrite.lifecycle hw) (h _ List.mem_cons_self)
      · exact (State.write_lifecycle_of_ne (fun l hwl => hl ⟨l, hwl⟩) s).symm.trans hw

/-- What a running request has left to do is part of its expansion, so it does not write CONSTRUCTED (R280). -/
theorem constructed_of_advance {s : State} (h : s.Inv) (ht : s.advance.lifecycle = .constructed) :
    s.lifecycle = .constructed := by
  cases hs : s.seq with
  | idle => rwa [advance_idle s hs] at ht
  | busy req pos rest =>
    obtain ⟨a, pre, ha⟩ := (State.inv_busy hs).1 h
    have hrest : ∀ w ∈ writesOf rest, w ≠ .lifecycle .constructed := by
      intro w hw
      have hbody := bodyOf_ne_constructed req a
      rw [ha.body, writesOf_append] at hbody
      exact hbody w (List.mem_append_right _ hw)
    rw [advance_busy s hs] at ht
    obtain ⟨ws, e, ms, rfl, hadv⟩ | ⟨ws, rfl, hadv⟩ := advanceWith_cases s req pos rest <;>
    · rw [hadv] at ht
      refine constructed_of_run (ms := writes ws) (fun w hw => hrest w (by simp_all)) ?_
      rw [State.run_writes]
      exact ht

/-- Settles O49: no part of any expansion writes CONSTRUCTED, whether it runs at once or step by step. -/
theorem neverBackToConstructed : Obligations.NeverBackToConstructed := by
  intro s t h hstep ht
  obtain ⟨inp, -, rfl⟩ | ⟨_, _, inp, r, bytes, -, -, rfl⟩ | ⟨i, inp, -, -, rfl⟩ | ⟨i, inp, -, -, rfl⟩ := step_cases hstep
  · exact constructed_of_advance (s := { s with inputs := inp }) (h.withInputs inp) ht
  · exact ht
  · exact constructed_of_run (s := { s with inputs := inp }) (bodyOf_ne_constructed i _) ht
  · exact ht

/-- A part of an expansion that does not end with a write ends before the writes at the expansion's end. -/
theorem isPrefix_of_append_eq_append_writes {p q b : List Micro} {ws : List RegWrite} (h : p ++ q = b ++ writes ws)
    (hp : ∀ w, p.getLast? ≠ some (.write w)) : p <+: b := by
  obtain ⟨c, hb, -⟩ | ⟨c, hc, hw⟩ := List.append_eq_append_iff.1 h
  · exact ⟨c, hb.symm⟩
  · cases hlast : c.getLast? with
    | none => simp_all
    | some m =>
      have hm : m ∈ writes ws := by
        rw [hw]
        exact List.mem_append_left _ (List.mem_of_getLast? hlast)
      obtain ⟨w, -, rfl⟩ := List.mem_map.1 hm
      exact absurd (by simp [hc, List.getLast?_append, hlast]) (hp w)

/-- A part of an expansion that does not end with a write has emitted an event, unless it is empty. -/
theorem eventsOf_ne_nil {p : List Micro} (hne : p ≠ []) (hp : ∀ w, p.getLast? ≠ some (.write w)) : eventsOf p ≠ [] := by
  cases hlast : p.getLast? with
  | none => simp_all
  | some m =>
    cases m with
    | write w => exact absurd hlast (hp w)
    | emit e =>
      have he : e ∈ eventsOf p := List.mem_filterMap.2 ⟨_, List.mem_of_getLast? hlast, rfl⟩
      exact List.ne_nil_of_mem he

/-- In a running BEGIN the lifecycle is INITIALIZING from the first event on (R44): its first write makes it so, and the write
of READY comes after every event. -/
theorem begin_lifecycle {s a : State} {pre rest : List Micro} {cols rows font : Byte} {pos : Nat}
    (h : s.RunsFrom a pre (.begin cols rows font) pos rest) (hne : pre ≠ []) : s.lifecycle = .initializing := by
  have hbody : pre ++ rest = (.write (.lifecycle .initializing) :: .write (.numRows rows.toNat) ::
      beginMiddle cols rows font a) ++ writes [.lifecycle .ready, .result none] := by
    rw [← h.body]
    exact bodyBegin_eq cols rows font a
  have hpre := isPrefix_of_append_eq_append_writes hbody h.last
  obtain rfl | ⟨pre', rfl, more, hmore⟩ := List.prefix_cons_iff.1 hpre
  · exact absurd rfl hne
  · have hkeep : ∀ w ∈ writesOf pre', ∀ l, w ≠ .lifecycle l := by
      have hall : ∀ w ∈ writesOf (.write (.numRows rows.toNat) :: beginMiddle cols rows font a), ∀ l, w ≠ .lifecycle l := by
        have hmid := fun w hw => RegWrite.ne_lifecycle (beginMiddleWrites_kinds cols rows font w hw).2.1
        simpa using hmid
      rw [← hmore, writesOf_append] at hall
      exact fun w hw => hall w (List.mem_append_left _ hw)
    rw [h.state]
    exact State.run_lifecycle { a with lifecycle := .initializing } hkeep

/-- Settles O50: a request that is no BEGIN keeps the lifecycle it was accepted in, which is settled; a BEGIN has made it
INITIALIZING once it has run any part of its expansion. -/
theorem initializingWhileBeginRuns : Obligations.InitializingWhileBeginRuns := by
  intro s h
  cases hs : s.seq with
  | idle => exact ⟨fun hl => absurd hl (h.idleInv hs).settled, nofun⟩
  | busy req pos rest =>
    obtain ⟨a, pre, ha⟩ := (State.inv_busy hs).1 h
    constructor
    · intro hl
      have hne : pre ≠ [] := by
        rintro rfl
        rw [ha.state] at hl
        exact ha.start.settled hl
      have hpos : 0 < pos := by
        rw [ha.position]
        exact List.length_pos_iff.2 (eventsOf_ne_nil hne ha.last)
      by_cases hreq : ∃ cols rows font, req = .begin cols rows font
      · obtain ⟨cols, rows, font, rfl⟩ := hreq
        exact ⟨cols, rows, font, pos, rest, rfl, hpos⟩
      · have hother : ∀ cols rows font, req ≠ .begin cols rows font :=
          fun cols rows font hr => hreq ⟨cols, rows, font, hr⟩
        rw [ha.state] at hl
        exact absurd ((run_bodyOf_lifecycle a a hother ha.body).symm.trans hl) ha.start.settled
    · rintro cols rows font pos' rest' hq hpos
      cases hq
      refine begin_lifecycle ha ?_
      rintro rfl
      rw [ha.position] at hpos
      exact absurd hpos (Nat.lt_irrefl 0)

end Sys2Proof.Machine
end

section
/-! PROOFS. The decoder read backwards: what decodes is an encoding, and exactly the listed opcodes are reserved. -/

namespace Sys2Proof.Machine

/-- The opcodes no row of the opcode map has (R94). -/
abbrev ReservedOpcode (op : Nat) : Prop :=
  op ≤ 0x0F ∨ (0x13 ≤ op ∧ op ≤ 0x1F) ∨ (0x21 ≤ op ∧ op ≤ 0x2F) ∨ (0x36 ≤ op ∧ op ≤ 0x3F) ∨
    (0x4C ≤ op ∧ op ≤ 0x4F) ∨ (0x52 ≤ op ∧ op ≤ 0x5F) ∨ 0x61 ≤ op

/-- The opcode of a request is in the map (R93). -/
theorem not_reserved_opcode (i : Instr) : ¬ ReservedOpcode i.opcode.toNat := by
  cases i <;> exact of_decide_eq_false rfl

/-- The opcode `op` and the operand bytes `operands` are those of the request `i` (R90). -/
structure IsRequest (op : Nat) (operands : List Byte) (i : Instr) : Prop where
  wellFormed : i.wellFormed = true
  opcode : i.opcode.toNat = op
  operands : i.operands = operands

theorem IsRequest.not_reserved {op : Nat} {operands : List Byte} {i : Instr} (h : IsRequest op operands i) :
    ¬ ReservedOpcode op :=
  h.opcode ▸ not_reserved_opcode i

/-- What the decoder may answer to an opcode and the bytes after it (R100): a request of that opcode whose operands stand in
front of the bytes left, `truncated` to an opcode of the map, or `badOpcode` to a reserved one. -/
inductive Reading (op : Nat) (args : List Byte) : Decoded → Prop
  | request {i : Instr} {operands rest : List Byte} (hi : IsRequest op operands i) (hargs : args = operands ++ rest) :
      Reading op args (.ok (i, rest))
  | short (hop : ¬ ReservedOpcode op) : Reading op args (.error .truncated)
  | reserved (hop : ReservedOpcode op) : Reading op args (.error .badOpcode)

/-! ### One lemma per format (R91) -/

section Formats

variable {op : Nat} (args : List Byte)

theorem reading_formatF0 {i : Instr} (hi : IsRequest op [] i) : Reading op args (formatF0 i args) :=
  .request hi rfl

theorem reading_formatF1 {k : Byte → Instr} (hk : ∀ a, IsRequest op [a] (k a)) : Reading op args (formatF1 k args) := by
  unfold formatF1
  split
  · exact .request (hk _) rfl
  · exact .short (hk 0).not_reserved

theorem reading_formatF2 {k : Byte → Byte → Instr} (hk : ∀ a b, IsRequest op [a, b] (k a b)) :
    Reading op args (formatF2 k args) := by
  unfold formatF2
  split
  · exact .request (hk _ _) rfl
  · exact .short (hk 0 0).not_reserved

theorem reading_formatF3 {k : Byte → Byte → Byte → Instr} (hk : ∀ a b c, IsRequest op [a, b, c] (k a b c)) :
    Reading op args (formatF3 k args) := by
  unfold formatF3
  split
  · exact .request (hk _ _ _) rfl
  · exact .short (hk 0 0 0).not_reserved

theorem reading_formatF4 {k : Byte → Byte → Byte → Byte → Instr}
    (hk : ∀ a b c d, IsRequest op [a, b, c, d] (k a b c d)) : Reading op args (formatF4 k args) := by
  unfold formatF4
  split
  · exact .request (hk _ _ _ _) rfl
  · exact .short (hk 0 0 0 0).not_reserved

theorem reading_formatF8 {k : Byte → Byte → Byte → Byte → Byte → Byte → Byte → Byte → Instr}
    (hk : ∀ a b c d e f g h, IsRequest op [a, b, c, d, e, f, g, h] (k a b c d e f g h)) :
    Reading op args (formatF8 k args) := by
  unfold formatF8
  split
  · exact .request (hk _ _ _ _ _ _ _ _) rfl
  · exact .short (hk 0 0 0 0 0 0 0 0).not_reserved

theorem reading_formatF9 {k : Byte → Byte → Byte → Byte → Byte → Byte → Byte → Byte → Byte → Instr}
    (hk : ∀ s a b c d e f g h, IsRequest op [s, a, b, c, d, e, f, g, h] (k s a b c d e f g h)) :
    Reading op args (formatF9 k args) := by
  unfold formatF9
  split
  · exact .request (hk _ _ _ _ _ _ _ _ _) rfl
  · exact .short (hk 0 0 0 0 0 0 0 0 0).not_reserved

/-- A length byte of 0 takes no text, so every opcode of this format has a request; a longer one takes its text or is short. -/
theorem reading_formatFV {k : Byte → List Byte → Instr}
    (hk : ∀ (n : Byte) (text : List Byte), text.length = n.toNat → IsRequest op (n :: text) (k n text)) :
    Reading op args (formatFV k args) := by
  have hop : ¬ ReservedOpcode op := (hk 0 [] rfl).not_reserved
  unfold formatFV
  split
  · rename_i n rest
    split
    · exact .short hop
    · rename_i hlen
      have htext : (rest.take n.toNat).length = n.toNat := by
        have := List.length_take_le n.toNat rest
        omega
      exact .request (hk n _ htext) (by rw [List.cons_append, List.take_append_drop])
  · exact .short hop

end Formats

/-- Every arm of the opcode map reads its operands by its format; an opcode that meets no arm is in a listed range. -/
theorem reading_decodeOpcode (op : Nat) (args : List Byte) : Reading op args (decodeOpcode op args) := by
  unfold decodeOpcode
  split
  case h_5 | h_11 | h_12 | h_13 | h_14 | h_15 | h_16 | h_17 | h_18 | h_19 | h_20 | h_21 | h_22 =>
    exact reading_formatF0 args ⟨rfl, rfl, rfl⟩
  case h_6 | h_7 | h_9 | h_10 => exact reading_formatF1 args fun _ => ⟨rfl, rfl, rfl⟩
  case h_8 | h_23 => exact reading_formatF2 args fun _ _ => ⟨rfl, rfl, rfl⟩
  case h_1 | h_4 => exact reading_formatF3 args fun _ _ _ => ⟨rfl, rfl, rfl⟩
  case h_2 => exact reading_formatF4 args fun _ _ _ _ => ⟨rfl, rfl, rfl⟩
  case h_3 => exact reading_formatF8 args fun _ _ _ _ _ _ _ _ => ⟨rfl, rfl, rfl⟩
  case h_24 => exact reading_formatF9 args fun _ _ _ _ _ _ _ _ _ => ⟨rfl, rfl, rfl⟩
  case h_25 => exact reading_formatFV args fun n text h => ⟨by simpa [Instr.wellFormed] using h, rfl, rfl⟩
  case h_26 =>
    refine .reserved ?_
    simp only [imp_false, ReservedOpcode] at *
    omega

theorem reading_decode (op : Byte) (args : List Byte) : Reading op.toNat args (decode (op :: args)) :=
  reading_decodeOpcode op.toNat args

/-- Whatever decodes is the encoding of a well-formed request and the bytes left (R100). -/
theorem encode_of_decode {bytes rest : List Byte} {i : Instr} (h : decode bytes = .ok (i, rest)) :
    i.wellFormed = true ∧ bytes = encode i ++ rest := by
  cases bytes with
  | nil => cases h
  | cons op args =>
    have hread := reading_decode op args
    rw [h] at hread
    obtain ⟨⟨hw, hop, hoperands⟩, hargs⟩ := hread
    refine ⟨hw, ?_⟩
    rw [encode, BitVec.eq_of_toNat_eq hop, hoperands, hargs, List.cons_append]

/-- The decoder answers `badOpcode` to the reserved opcodes only, whatever bytes follow (R94). -/
theorem decode_cons_eq_badOpcode (op : Byte) (args : List Byte) :
    decode (op :: args) = .error .badOpcode ↔ ReservedOpcode op.toNat := by
  have hread := reading_decode op args
  cases hd : decode (op :: args) with
  | error r =>
    rw [hd] at hread
    cases hread with
    | short hop => simp [hop]
    | reserved hop => simp [hop]
  | ok d =>
    rw [hd] at hread
    cases hread with
    | request hi hargs => simp [hi.not_reserved]

/-- No encoding continues another: it would decode to both requests (R90, R100). -/
theorem eq_nil_of_encode_eq_append {i j : Instr} (hi : i.wellFormed = true) (hj : j.wellFormed = true) {rest : List Byte}
    (h : encode i = encode j ++ rest) : rest = [] := by
  have hd : decode (encode i) = .ok (j, rest) := by
    rw [h]
    exact decode_encode_append hj rest
  rw [decode_encode hi] at hd
  obtain ⟨-, hrest⟩ := Prod.mk.inj (Except.ok.inj hd)
  exact hrest.symm

/-- An encoding cut short is `truncated` (R95): its opcode is not reserved, and if it held a request, the whole would
continue that request's encoding. -/
theorem decode_take_encode {i : Instr} (hw : i.wellFormed = true) {k : Nat} (hk : k < (encode i).length) :
    decode ((encode i).take k) = .error .truncated := by
  cases k with
  | zero => rfl
  | succ k =>
    have htake : (encode i).take (k + 1) = i.opcode :: i.operands.take k := rfl
    have hread := reading_decode i.opcode (i.operands.take k)
    rw [htake]
    cases hd : decode (i.opcode :: i.operands.take k) with
    | error r =>
      rw [hd] at hread
      cases hread with
      | short hop => rfl
      | reserved hop => exact absurd hop (not_reserved_opcode i)
    | ok d =>
      obtain ⟨j, rest⟩ := d
      obtain ⟨hj, hbytes⟩ := encode_of_decode hd
      have hwhole : encode i = encode j ++ (rest ++ (encode i).drop (k + 1)) := by
        rw [← List.append_assoc, ← hbytes, ← htake, List.take_append_drop]
      obtain ⟨-, hdrop⟩ := List.append_eq_nil_iff.1 (eq_nil_of_encode_eq_append hw hj hwhole)
      exact absurd (List.drop_eq_nil_iff.1 hdrop) (Nat.not_le.2 hk)

/-- Settles O2: the round trip of the decoder. -/
theorem decodeOfEncode : Obligations.DecodeOfEncode :=
  fun _ rest hw => decode_encode_append hw rest

/-- Settles O3: each arm of the opcode map takes exactly its request's bytes. -/
theorem encodeOfDecode : Obligations.EncodeOfDecode :=
  fun _ _ _ => encode_of_decode

/-- Settles O6: the decoder is run on each of the byte strings. -/
theorem sampleRequestsDecode : Obligations.SampleRequestsDecode :=
  ⟨rfl, rfl, rfl, rfl, rfl, rfl, rfl, rfl⟩

end Sys2Proof.Machine
end

section
/-! PROOFS. A presentation at an idle port: it runs the request it decodes to, or it is refused with the decoder's reason. -/

namespace Sys2Proof.Machine

/-- Accepting or refusing a request at the port takes no input (R258). -/
theorem accept_inputs (i : Instr) (s : State) : (accept i (checkOf i s) (bodyOf i s) s).inputs = s.inputs := by
  obtain ⟨r, ha⟩ | ⟨-, -, ha⟩ := accept_cases s i
  · rw [ha, State.refuse_inputs]
  · rw [ha]

section IdlePort

variable {s : State} {bytes rest : List Byte} {later : List Input} {i : Instr}

/-- A presentation the host waits for is its request, run at once (R6, R95). -/
theorem step_call_of_decode (hs : s.seq = .idle) (hin : s.inputs = .call bytes :: later)
    (hd : decode bytes = .ok (i, rest)) : step s = exec i { s with inputs := leftOver .call rest later } := by
  simp [step, serveInputs, serveCall, hin, hs, hd]

/-- A presentation the host does not wait for leaves the bytes after its request, accepted or not (R95). -/
theorem step_post_of_decode (hs : s.seq = .idle) (hin : s.inputs = .post bytes :: later)
    (hd : decode bytes = .ok (i, rest)) : ∃ t, step s = .next t ∧ t.inputs = leftOver .post rest later := by
  have hserve : servePost bytes later s =
      accept i (checkOf i { s with inputs := leftOver .post rest later })
        (bodyOf i { s with inputs := leftOver .post rest later }) { s with inputs := leftOver .post rest later } := by
    simp [servePost, hs, hd]
  exact ⟨servePost bytes later s, by simp only [step, serveInputs, hin], by rw [hserve, accept_inputs]⟩

/-- A presentation that decodes to no request is refused, whether or not the host waits (R100, R251). -/
theorem step_of_decode_error {r : Reason} (hs : s.seq = .idle)
    (hin : s.inputs = .call bytes :: later ∨ s.inputs = .post bytes :: later) (hd : decode bytes = .error r) :
    step s = .next { s with inputs := later, refused := true, lastRefusal := some (r, bytes) } := by
  obtain hcall | hpost := hin
  · simp [step, serveInputs, serveCall, hcall, hs, hd, State.refuse]
  · simp [step, serveInputs, servePost, hpost, hs, hd, State.refuse]

end IdlePort

/-- Settles O4: the decoder's own account of `badOpcode`, and its refusal at the port. -/
theorem reservedOpcodesAreRefused : Obligations.ReservedOpcodesAreRefused :=
  ⟨decode_cons_eq_badOpcode, fun _ _ _ _ hs hin hd => step_of_decode_error hs hin hd⟩

/-- Settles O5: a cut-short request is `truncated`; a whole one is read and the bytes after it stay. -/
theorem truncatedAndSurplusBytes : Obligations.TruncatedAndSurplusBytes := by
  constructor
  · intro s i k later hw hk hs hin
    exact step_of_decode_error hs hin (decode_take_encode hw hk)
  · intro s i b rest later hw hs
    have hd : decode (encode i ++ b :: rest) = .ok (i, b :: rest) := decode_encode_append hw _
    exact ⟨fun hin => step_call_of_decode hs hin hd, fun hin => step_post_of_decode hs hin hd⟩

/-- Settles O7: a step at an idle port, with the bytes left over written out. -/
theorem stepRunsTheDecodedRequest : Obligations.StepRunsTheDecodedRequest :=
  fun _ _ _ _ _ hs hin hd => step_call_of_decode hs hin hd

end Sys2Proof.Machine
end

section
/-! PROOFS. The bytes the engine and its host build: command bytes by class, and the PRINT of a PRINTF. -/

namespace Sys2Proof.Machine

/-! ### Command classes -/

/-- The class of a byte is that of its highest 1 bit: two bytes that agree from a 1 bit up have the same class (R101). -/
theorem commandClass_congr {v w : Byte} {k : Nat} (hk : v.getLsbD k = true)
    (h : ∀ j < 8, k ≤ j → w.getLsbD j = v.getLsbD j) : commandClass w = commandClass v := by
  have hlt : k < 8 := BitVec.lt_of_getLsbD hk
  interval_cases k <;> simp (disch := decide) only [commandClass, h, hk, if_true]

/-- A field whose bits all lie below the command's 1 bit `k`, as a mask from bit `k` up says, leaves the command its class. -/
theorem commandClass_or {c x m : Byte} (k : Nat) (hc : c.getLsbD k = true) (hm : ∀ j < 8, k ≤ j → m.getLsbD j = true)
    (hx : x &&& m = 0) : commandClass (c ||| x) = commandClass c := by
  refine commandClass_congr hc fun j hj hkj => ?_
  have hbit : (x.getLsbD j && m.getLsbD j) = false := by
    rw [← BitVec.getLsbD_and, hx]
    exact BitVec.getLsbD_zero
  rw [hm j hj hkj, Bool.and_true] at hbit
  rw [BitVec.getLsbD_or, hbit, Bool.or_false]

/-- A CGRAM address, a masked slot times 8, has 6 bits (R107, R225). -/
theorem maskSlot_shiftLeft_and (slot : Byte) : maskSlot slot <<< 3 &&& 0xC0 = 0 := by
  rw [maskSlot, BitVec.shiftLeft_and_distrib, BitVec.and_assoc]
  exact BitVec.and_zero

/-- Bit 7 of a DDRAM command is 1, whatever the address (R108). -/
theorem commandClass_cmdSetDdram (sum : BitVec 9) : commandClass (cmdSetDdram sum) = some .setDdram := by
  simp [commandClass, cmdSetDdram]

/-- Settles O46: a register's field or an address lies below the 1 bit of its command. -/
theorem engineCommandsHaveTheirClass : Obligations.EngineCommandsHaveTheirClass := by
  intro s slot col row hres
  obtain ⟨hfunction, hcontrol, hentry⟩ := hres
  refine ⟨rfl, rfl, ?_, ?_, rfl, rfl, ?_, ?_, commandClass_cmdSetDdram _⟩
  · exact commandClass_or 2 (by decide) (by decide) hentry
  · exact commandClass_or 3 (by decide) (by decide) hcontrol
  · exact commandClass_or 5 (by decide) (by decide) hfunction
  · exact commandClass_or 6 (by decide) (by decide) (maskSlot_shiftLeft_and slot)

/-! ### PRINTF -/

/-- The text PRINTF keeps is counted by its PRINT's length byte (R96, R112). -/
theorem wellFormed_print_take (text : List Byte) (n : Nat) :
    (Instr.print (BitVec.ofNat 8 (text.take (min n 255)).length) (text.take (min n 255))).wellFormed = true := by
  have hlen : (text.take (min n 255)).length < 256 := by
    have := List.length_take_le (min n 255) text
    omega
  simp only [Instr.wellFormed, BitVec.toNat_ofNat, beq_iff_eq]
  omega

/-- Settles O38: the PRINT keeps the front of the text, within both bounds. -/
theorem printfIssuesOnePrint : Obligations.PrintfIssuesOnePrint := by
  intro c
  refine ⟨fun text => ⟨_, text.take (min (c.fmtBuf - 1) 255), rfl, wellFormed_print_take text _, List.take_prefix _ _,
    ?_, ?_⟩, rfl⟩
  · rw [List.length_take]
    omega
  · intro hbuf hprint
    exact List.take_of_length_le (le_min hbuf hprint)

end Sys2Proof.Machine
end

section
/-! PROOFS. The pin-map requests (R122 to R124): the checks all bindings share, and the pin map each one leaves. -/

namespace Sys2Proof.Machine

/-! ### The checks of a binding -/

/-- The pins a binding names are legal (R121): in the pin range, `rw` possibly UNUSED. -/
def State.legalPins (s : State) : Instr → Bool
  | .bindCtrl rw en rs => s.pinOK en && s.pinOK rs && s.rwPinOK rw
  | .bindData4 d0 d1 d2 d3 => [d0, d1, d2, d3].all s.pinOK
  | .bindData8 d0 d1 d2 d3 d4 d5 d6 d7 => [d0, d1, d2, d3, d4, d5, d6, d7].all s.pinOK
  | _ => false

variable {s : State} {i : Instr}

/-- Every binding makes the same two checks, the lifecycle's first (R252, R254). -/
theorem checkOf_binding (hb : isBinding i = true) :
    checkOf i s = firstReason [(s.rebindAfterBegin, .rebindAfterBegin), (!s.legalPins i, .badPin)] := by
  cases i with
  | bindCtrl | bindData4 | bindData8 => rfl
  | _ => cases hb

/-- A binding after a BEGIN is refused, whatever its pins (R296). -/
theorem exec_binding_rebind (hs : s.seq = .idle) (hb : isBinding i = true) (hl : s.lifecycle ≠ .constructed) :
    exec i s = .next (s.refusedBy .rebindAfterBegin i) :=
  exec_refused s i hs (by simp [checkOf_binding hb, firstReason, State.rebindAfterBegin, hl])

/-- A binding before any BEGIN with a pin out of range is refused (R121). -/
theorem exec_binding_badPin (hs : s.seq = .idle) (hb : isBinding i = true) (hl : s.lifecycle = .constructed)
    (hp : ¬ s.legalPins i = true) : exec i s = .next (s.refusedBy .badPin i) :=
  exec_refused s i hs (by simp [checkOf_binding hb, firstReason, State.rebindAfterBegin, hl, hp])

/-- A binding before any BEGIN with legal pins runs its body. -/
theorem exec_binding_accepted (hs : s.seq = .idle) (hb : isBinding i = true) (hl : s.lifecycle = .constructed)
    (hp : s.legalPins i = true) : exec i s = .next (s.run (bodyOf i s)) :=
  exec_accepted s i hs (by simp [checkOf_binding hb, hl, hp])

theorem legalPins_bindCtrl {rw en rs : Byte} : s.legalPins (.bindCtrl rw en rs) = true ↔
    en.toNat < s.cfg.pinCount ∧ rs.toNat < s.cfg.pinCount ∧ (rw = 0xFF ∨ rw.toNat < s.cfg.pinCount) := by
  simp [State.legalPins, State.pinOK, State.rwPinOK, unused, and_assoc]

/-- A list of data pins is legal when each is in the pin range (R121). -/
theorem all_pinOK_iff (s : State) (pins : List Byte) :
    pins.all s.pinOK = true ↔ ∀ p ∈ pins, p.toNat < s.cfg.pinCount := by
  simp [State.pinOK]

theorem legalPins_bindData4 {d0 d1 d2 d3 : Byte} :
    s.legalPins (.bindData4 d0 d1 d2 d3) = true ↔ ∀ p ∈ [d0, d1, d2, d3], p.toNat < s.cfg.pinCount :=
  all_pinOK_iff s _

theorem legalPins_bindData8 {d0 d1 d2 d3 d4 d5 d6 d7 : Byte} :
    s.legalPins (.bindData8 d0 d1 d2 d3 d4 d5 d6 d7) = true ↔
      ∀ p ∈ [d0, d1, d2, d3, d4, d5, d6, d7], p.toNat < s.cfg.pinCount :=
  all_pinOK_iff s _

/-- Settles O12: the lifecycle is the first check of every binding. -/
theorem noRebindingAfterBegin : Obligations.NoRebindingAfterBegin :=
  fun _ _ hs hl hb => exec_binding_rebind hs hb hl

/-! ### What each binding writes -/

/-- BIND_CTRL accepted: the three pins and the flag (R122). -/
theorem exec_bindCtrl {rw en rs : Byte} (hs : s.seq = .idle) (hl : s.lifecycle = .constructed)
    (hp : s.legalPins (.bindCtrl rw en rs) = true) :
    exec (.bindCtrl rw en rs) s =
      .next { s with pinRW := rw, pinEN := en, pinRS := rs, ctrlBound := true, result := none } :=
  exec_binding_accepted hs rfl hl hp

/-- BIND_DATA4 accepted: four pins, the other entries UNUSED, the count, and DL cleared (R123). -/
theorem exec_bindData4 {d0 d1 d2 d3 : Byte} (hs : s.seq = .idle) (hl : s.lifecycle = .constructed)
    (hp : s.legalPins (.bindData4 d0 d1 d2 d3) = true) :
    exec (.bindData4 d0 d1 d2 d3) s =
      .next { s with data := #v[d0, d1, d2, d3, 0xFF, 0xFF, 0xFF, 0xFF], dataCount := .four,
                     function := clrBits s.function maskDL, result := none } :=
  exec_binding_accepted hs rfl hl hp

/-- BIND_DATA8 accepted: eight pins, the count, and DL set (R124). -/
theorem exec_bindData8 {d0 d1 d2 d3 d4 d5 d6 d7 : Byte} (hs : s.seq = .idle) (hl : s.lifecycle = .constructed)
    (hp : s.legalPins (.bindData8 d0 d1 d2 d3 d4 d5 d6 d7) = true) :
    exec (.bindData8 d0 d1 d2 d3 d4 d5 d6 d7) s =
      .next { s with data := #v[d0, d1, d2, d3, d4, d5, d6, d7], dataCount := .eight,
                     function := setBits s.function maskDL, result := none } :=
  exec_binding_accepted hs rfl hl hp

/-- Settles O14: the checks all bindings share, and what BIND_CTRL writes. -/
theorem bindCtrlResult : Obligations.BindCtrlResult := by
  intro s rw en rs hs
  refine ⟨rfl, fun hl hen hrs hrw => ?_, fun hl hp => ?_, exec_binding_rebind hs rfl⟩
  · exact exec_bindCtrl hs hl (legalPins_bindCtrl.2 ⟨hen, hrs, hrw⟩)
  · exact exec_binding_badPin hs rfl hl fun h => hp (legalPins_bindCtrl.1 h)

/-- Settles O15: the checks all bindings share, and what BIND_DATA4 writes. -/
theorem bindData4Result : Obligations.BindData4Result := by
  intro s d0 d1 d2 d3 hs
  refine ⟨rfl, fun hl hp => ?_, fun hl hp => ?_, exec_binding_rebind hs rfl⟩
  · exact exec_bindData4 hs hl (legalPins_bindData4.2 hp)
  · exact exec_binding_badPin hs rfl hl fun h => hp (legalPins_bindData4.1 h)

/-- Settles O16: the checks all bindings share, and what BIND_DATA8 writes. -/
theorem bindData8Result : Obligations.BindData8Result := by
  intro s d0 d1 d2 d3 d4 d5 d6 d7 hs
  refine ⟨rfl, fun hl hp => ?_, fun hl hp => ?_, exec_binding_rebind hs rfl⟩
  · exact exec_bindData8 hs hl (legalPins_bindData8.2 hp)
  · exact exec_binding_badPin hs rfl hl fun h => hp (legalPins_bindData8.1 h)

/-! ### The last data binding wins -/

theorem clrBits_setBits (x m : Byte) : clrBits (setBits x m) m = clrBits x m :=
  setBits_and (BitVec.and_not_self m) x

theorem setBits_clrBits (x m : Byte) : setBits (clrBits x m) m = setBits x m := by
  refine BitVec.eq_of_getLsbD_eq fun k hk => ?_
  cases hm : m[k] <;> simp [setBits, clrBits, hk, hm]

/-- Settles O17: the second binding writes every register the first one wrote, and the DL it leaves does not depend on the
DL it found. -/
theorem lastDataBindingWins : Obligations.LastDataBindingWins := by
  intro s t d0 d1 d2 d3 e0 e1 e2 e3 e4 e5 e6 e7 hs hl hd he
  have hp4 := legalPins_bindData4.2 hd
  have hp8 := legalPins_bindData8.2 he
  have h4 := exec_bindData4 hs hl hp4
  have h8 := exec_bindData8 hs hl hp8
  constructor
  · intro ht
    obtain rfl := Host.Outcome.next.inj (h8.symm.trans ht)
    refine Eq.trans (exec_bindData4 hs hl hp4) ?_
    rw [h4, clrBits_setBits]
  · intro ht
    obtain rfl := Host.Outcome.next.inj (h4.symm.trans ht)
    refine Eq.trans (exec_bindData8 hs hl hp8) ?_
    rw [h8, setBits_clrBits]

end Sys2Proof.Machine
end

section
/-! PROOFS. BEGIN's clock enables and output configurations (R126, R127): its first events, and no later event is one. -/

namespace Sys2Proof.Machine

/-! ### First occurrences -/

/-- Appending a member last removes its earlier occurrences from what `dedup` keeps, the last ones. -/
theorem dedup_append_singleton {α : Type} [DecidableEq α] (ps : List α) (p : α) :
    (ps ++ [p]).dedup = ps.dedup.filter (· != p) ++ [p] := by
  induction ps with
  | nil => rfl
  | cons q qs ih =>
    by_cases hqp : q = p
    · subst hqp
      rw [List.cons_append, List.dedup_cons_of_mem (by simp), ih]
      by_cases hq : q ∈ qs <;> simp [hq]
    · by_cases hq : q ∈ qs <;> simp [hq, hqp, ih]

/-- The first occurrences are the last ones of the list read backwards (R126). -/
theorem firstOccurrences_eq (ps : List Port) : firstOccurrences ps = ps.reverse.dedup.reverse := by
  induction ps with
  | nil => rfl
  | cons p ps ih => simp [firstOccurrences, ih, dedup_append_singleton]

/-! ### The two lists -/

/-- RW is wired unless its pin is the sentinel (R38). -/
theorem wiredRW_iff (s : State) : s.wiredRW = true ↔ s.pinRW ≠ 0xFF := by
  simp [State.wiredRW, unused]

/-- `clockPorts()` written out for a wired and an unwired RW (R126). -/
theorem clockPorts_eq (s : State) :
    s.clockPorts =
      (if s.pinRW ≠ 0xFF then [s.cfg.portData, s.cfg.portRW, s.cfg.portEN, s.cfg.portRS]
        else [s.cfg.portData, s.cfg.portEN, s.cfg.portRS]).reverse.dedup.reverse := by
  simp only [State.clockPorts, firstOccurrences_eq, wiredRW_iff]
  split <;> rfl

/-- The wired roles written out, in the order of R127: the control roles, then the data roles. -/
theorem activeRoles_eq (s : State) :
    s.activeRoles =
      .rs :: (if s.pinRW ≠ 0xFF then .rw :: .en :: s.dataLines.map .d else .en :: s.dataLines.map .d) := by
  simp only [State.activeRoles, wiredRW_iff]
  split <;> rfl

theorem map_dataLines (s : State) (h0 : s.dataCount ≠ .zero) :
    s.dataLines.map Role.d =
      if s.dataCount = .eight then [.d 0, .d 1, .d 2, .d 3, .d 4, .d 5, .d 6, .d 7] else [.d 0, .d 1, .d 2, .d 3] := by
  cases h : s.dataCount with
  | zero => exact absurd h h0
  | four => rw [State.dataLines, h]; rfl
  | eight => rw [State.dataLines, h]; rfl

/-! ### Events that set up no pin -/

/-- The event enables a clock or configures an output (R58): what BEGIN does in step S2 only. -/
def Event.setsUp : Event → Bool
  | .enableClock _ => true
  | .configureOutput _ _ => true
  | .setLevel _ _ _ _ => false
  | .delayMs _ => false

theorem Event.setsUp_eq_false (e : Event) :
    e.setsUp = false ↔ (∀ p, e ≠ .enableClock p) ∧ ∀ p q, e ≠ .configureOutput p q := by
  cases e <;> simp [Event.setsUp]

/-- Every event of the list drives a line or waits. -/
def noSetup (es : List Event) : Bool := es.all fun e => !e.setsUp

@[simp] theorem noSetup_nil : noSetup [] = true := rfl
@[simp] theorem noSetup_cons (e : Event) (es : List Event) : noSetup (e :: es) = (!e.setsUp && noSetup es) := rfl
@[simp] theorem noSetup_append (a b : List Event) : noSetup (a ++ b) = (noSetup a && noSetup b) := List.all_append
@[simp] theorem setsUp_delayMs (n : Nat) : (Event.delayMs n).setsUp = false := rfl

variable (s : State)

@[simp] theorem setsUp_setLevel (r : Role) (b : Bool) : (s.setLevel r b).setsUp = false := rfl

@[simp] theorem noSetup_write4bits (v : Byte) : noSetup (write4bits s v) = true := rfl
@[simp] theorem noSetup_write8bits (v : Byte) : noSetup (write8bits s v) = true := rfl

@[simp] theorem noSetup_command (v : Byte) : noSetup (command s v) = true := by
  cases hw : s.wiredRW <;> cases hd : s.dl <;> simp [command, send, hw, hd]

/-! ### The events of BEGIN -/

/-- BEGIN is accepted with a legal row count, everything bound and no shared pin (R170, R252). -/
theorem checkOf_begin_eq_none {cols rows font : Byte} {s : State} (h1 : 1 ≤ rows.toNat) (h4 : rows.toNat ≤ 4)
    (hb : s.ctrlBound = true) (h0 : s.dataCount ≠ .zero) (ha : s.aliasFree = true) :
    checkOf (.begin cols rows font) s = none := by
  simp [checkOf, checkBegin, badRows, State.notBound, h1, h4, hb, h0, ha]

/-- BEGIN's events after step S2, each step's those of the registers as the writes before it left them (R174 to R181). -/
def beginAfterS2 (cols rows font : Byte) (s : State) : List Event :=
  let s1 := s.writeAll (beginWritesS1 cols rows font)
  let s7 := s1.writeAll beginWritesS7
  let s9 := s7.writeAll beginWritesS9
  beginS3 s1 ++ beginS4 s1 ++ beginS5 s1 ++ beginS6 s1 ++ beginS7 s7 ++ beginS8 s7 ++ beginS9 s9

theorem noSetup_beginS4 : noSetup (beginS4 s) = true := by
  cases hw : s.wiredRW <;> simp [beginS4, hw]

theorem noSetup_beginS5 : noSetup (beginS5 s) = true := by
  cases hd : s.dl <;> simp [beginS5, hd]

/-- After step S2, BEGIN only drives lines and waits. -/
theorem noSetup_beginAfterS2 (cols rows font : Byte) : noSetup (beginAfterS2 cols rows font s) = true := by
  simp [beginAfterS2, beginS3, noSetup_beginS4, noSetup_beginS5, beginS6, beginS7, beginS8, beginS9]

/-- Step S2 reads the pin map and the parameters only. -/
theorem beginS2_congr {s t : State} (h : s.SameMap t) : beginS2 s = beginS2 t := by
  simp [beginS2, h.clockPorts, h.activeRoles, h.resolve]

/-- Step S1 keeps the pin map (R172, R183). -/
theorem writeAll_beginWritesS1_sameMap (cols rows font : Byte) : (s.writeAll (beginWritesS1 cols rows font)).SameMap s := by
  rw [← State.run_writes]
  refine s.run_sameMap fun w hw => ?_
  rw [writesOf_writes] at hw
  have hmem : w ∈ beginWritesS1 cols rows font ++ beginWritesS7 ++ beginWritesS9 := by simp [hw]
  exact regWrites_keepsBus (i := .begin cols rows font) rfl w (List.mem_append_left _ hmem)

/-- BEGIN's events are step S2's, of the pin map it was accepted with, and the later steps' (R170). -/
theorem eventsOf_bodyBegin (cols rows font : Byte) :
    eventsOf (bodyBegin cols rows font s) = beginS2 s ++ beginAfterS2 cols rows font s := by
  rw [← beginS2_congr (writeAll_beginWritesS1_sameMap s cols rows font)]
  simp [bodyBegin, beginPhases, beginAfterS2]

/-- Settles O26: BEGIN's first events are step S2's, and no event of a later step is of their kinds. -/
theorem beginEnablesEachPortOnceThenConfigures : Obligations.BeginEnablesEachPortOnceThenConfigures := by
  intro s t cols rows font hs h1 h4 hb h0 ha hexec
  rw [exec_accepted s _ hs (checkOf_begin_eq_none h1 h4 hb h0 ha)] at hexec
  obtain rfl := Host.Outcome.next.inj hexec
  refine ⟨beginAfterS2 cols rows font s, ?_, fun e he => ?_⟩
  · rw [State.run_trace, bodyOf, eventsOf_bodyBegin, beginS2, clockPorts_eq, activeRoles_eq, map_dataLines s h0,
      List.append_assoc]
  · have hno := List.all_eq_true.1 (noSetup_beginAfterS2 s cols rows font) e he
    exact e.setsUp_eq_false.1 (by simpa using hno)

end Sys2Proof.Machine
end

section
/-! PROOFS. The bus requests on their own: refused before a BEGIN has completed, and what PULSE_ENABLE, WRITE4BITS,
WRITE8BITS, SEND, COMMAND and WRITE emit, leave on the lines and transfer (R140 to R157). -/

namespace Sys2Proof.Machine

variable {s : State} {i : Instr}

/-! ### The checks of a bus request -/

/-- NotBegun is the first check of every request that needs a BEGIN, whatever its operands (R140, R252). -/
theorem checkOf_notBegun (hn : needsBegin i = true) (hl : s.lifecycle ≠ .ready) : checkOf i s = some .notBegun := by
  have hbus := checkBus_notReady s hl
  have hbegun : s.notBegun = true := by simpa [State.notBegun] using hl
  cases i with
  | bindCtrl | bindData4 | bindData8 | begin => cases hn
  | write8bits v => simp [checkOf, checkWrite8bits, firstReason, hbegun]
  | send v mode => simp [checkOf, checkSend, firstReason, hbegun]
  | _ => exact hbus

/-- Settles O11: the check of the lifecycle comes first. -/
theorem busRequestsNeedBegin : Obligations.BusRequestsNeedBegin :=
  fun s i hs hl hn => exec_refused s i hs (checkOf_notBegun hn hl)

/-- WRITE8BITS asks for eight data pins (R151). -/
theorem checkOf_write8bits (hl : s.lifecycle = .ready) (v : Byte) :
    checkOf (.write8bits v) s = if s.dataCount = .eight then none else some .widthMismatch := by
  by_cases h8 : s.dataCount = .eight <;> simp [checkOf, checkWrite8bits, firstReason, State.notBegun, hl, h8]

/-- SEND asks for mode 0 or 1 (R152). -/
theorem checkOf_send (hl : s.lifecycle = .ready) (v mode : Byte) :
    checkOf (.send v mode) s = if mode = 0 ∨ mode = 1 then none else some .badOperand := by
  simp [checkOf, checkSend, firstReason, State.notBegun, hl, ← not_or]

/-- An accepted request that only emits events and returns: they join the trace, the lines follow them, and no register but
`result` changes (R14, R48, R53). -/
theorem exec_emits (i : Instr) {es : List Event} {res : Option Byte} (hs : s.seq = .idle) (hc : checkOf i s = none)
    (hb : bodyOf i s = emits es ++ ret res) :
    exec i s = .next { s with trace := s.trace ++ es, lines := s.replay s.lines es, result := res } := by
  rw [exec_accepted s i hs hc, hb, State.run_append, State.run_emits, State.run_ret]

/-! ### Pulses, nibbles and bytes -/

/-- Settles O18: a pulse between two bus events is one transfer of the lines as they are. -/
theorem pulseEnableResult : Obligations.PulseEnableResult := by
  intro s ⟨hs, hl⟩
  refine ⟨?_, transfersFrom_pulseEnable s s.lines⟩
  refine (exec_emits .pulseEnable hs (checkBus_ready s hl) rfl).trans ?_
  rw [replay_pulseEnable]
  rfl

/-- The snapshot after D0..D3 are driven: in 8-bit mode it shows the kept D4..D7 (R149). -/
theorem snapshot_lowLines (h0 : s.dataCount ≠ .zero) (ls : Lines) (v : Byte) :
    s.snapshot { ls with d := Vector.ofFn fun i => if i.val < 4 then .driven (v.getLsbD i) else ls.d[i] } =
      ⟨ls.rs, if s.wiredRW then some ls.rw else none,
        bitLevels 4 v ++ (if s.dataCount = .eight then [ls.d[4], ls.d[5], ls.d[6], ls.d[7]] else [])⟩ := by
  cases hc : s.dataCount with
  | zero => exact absurd hc h0
  | four => simp [State.snapshot, State.dataLines, hc, DataCount.count, allLines, bitLevels]
  | eight => simp [State.snapshot, State.dataLines, hc, DataCount.count, allLines, bitLevels]

/-- Settles O19: the lines D0..D3 are driven first, and the pulse transfers what the bound lines then hold. -/
theorem write4bitsResult : Obligations.Write4bitsResult := by
  intro s v ⟨hs, hl⟩ h0
  refine ⟨write4bits s v, ?_, rfl, rfl, ?_⟩
  · rw [exec_emits (.write4bits v) hs (checkBus_ready s hl) rfl, replay_write4bits]
  · rw [transfersFrom_write4bits, snapshot_lowLines h0]

/-- The low nibble is all that D0..D3 take from the operand (R146). -/
theorem write4bits_and_lowNibble (s : State) (v : Byte) : write4bits s (v &&& 0x0F) = write4bits s v := by
  simp [write4bits, driveLines, lowLines]

/-- Settles O20: both operands have one expansion. -/
theorem write4bitsIgnoresUpperBits : Obligations.Write4bitsIgnoresUpperBits := by
  intro s v ⟨hs, hl⟩
  have hbody : bodyOf (.write4bits (v &&& 0x0F)) s = bodyOf (.write4bits v) s := by
    simp only [bodyOf, bodyWrite4bits, write4bits_and_lowNibble]
  rw [exec_accepted s (.write4bits v) hs (checkBus_ready s hl),
    exec_accepted s (.write4bits (v &&& 0x0F)) hs (checkBus_ready s hl), hbody]

/-- The snapshot after D0..D7 are driven, with eight data pins (R150). -/
theorem snapshot_allLines (h8 : s.dataCount = .eight) (ls : Lines) (v : Byte) :
    s.snapshot { ls with d := Vector.ofFn fun i => .driven (v.getLsbD i) } =
      ⟨ls.rs, if s.wiredRW then some ls.rw else none, bitLevels 8 v⟩ := by
  simp [State.snapshot, State.dataLines, h8, DataCount.count, allLines, bitLevels]

/-- Settles O21: the width is checked, then all eight lines are driven and transferred. -/
theorem write8bitsResult : Obligations.Write8bitsResult := by
  intro s v ⟨hs, hl⟩
  have hcheck := checkOf_write8bits hl v
  refine ⟨fun h8 => ⟨write8bits s v, ?_, rfl, rfl, ?_⟩, fun h8 => ?_⟩
  · rw [exec_emits (.write8bits v) hs (hcheck.trans (if_pos h8)) rfl, replay_write8bits]
  · rw [transfersFrom_write8bits, snapshot_allLines h8]
  · exact exec_refused s _ hs (hcheck.trans (if_neg h8))

/-! ### SEND, COMMAND and WRITE -/

/-- The events drive neither RS nor RW. -/
def keepsControl (es : List Event) : Prop := ∀ e ∈ es, ∀ r p q b, e = .setLevel r p q b → r ≠ .rs ∧ r ≠ .rw

theorem keepsControl_append {a b : List Event} (ha : keepsControl a) (hb : keepsControl b) : keepsControl (a ++ b) :=
  fun e he => (List.mem_append.1 he).elim (ha e) (hb e)

theorem keepsControl_driveLines (s : State) (ix : List (Fin 8)) (v : Byte) : keepsControl (driveLines s ix v) := by
  intro e he r p q b h
  obtain ⟨j, -, rfl⟩ := List.mem_map.1 he
  obtain ⟨rfl, -⟩ := Event.setLevel.inj h
  simp

theorem keepsControl_pulseEnable (s : State) : keepsControl (pulseEnable s) := by
  simp [keepsControl, pulseEnable, State.setLevel]

/-- What `send` drives before any data line: RS, then RW low if wired (R152, R153). -/
def sendControl (s : State) (rs : Bool) : List Event :=
  if s.pinRW ≠ 0xFF then [s.setLevel .rs rs, s.setLevel .rw false] else [s.setLevel .rs rs]

/-- After the control lines, `send` drives neither of them again, whatever the width (R152). -/
theorem send_eq_control_append (s : State) (v : Byte) (rs : Bool) :
    ∃ evs, send s v rs = sendControl s rs ++ evs ∧ keepsControl evs := by
  have hpulsed (ix : List (Fin 8)) (w : Byte) : keepsControl (driveLines s ix w ++ pulseEnable s) :=
    keepsControl_append (keepsControl_driveLines s ix w) (keepsControl_pulseEnable s)
  refine ⟨if s.dl then write8bits s v else write4bits s (highNibble v) ++ write4bits s v, ?_, ?_⟩
  · simp only [send, sendControl, wiredRW_iff]
    split <;> rfl
  · split
    · exact hpulsed allLines v
    · exact keepsControl_append (hpulsed lowLines (highNibble v)) (hpulsed lowLines v)

/-- Settles O22: the mode is checked, then `send` starts with the control lines. -/
theorem sendDrivesControlLinesFirst : Obligations.SendDrivesControlLinesFirst := by
  intro s v mode ⟨hs, hl⟩
  have hcheck := checkOf_send hl v mode
  refine ⟨fun hm => ?_, fun h0 h1 => exec_refused s _ hs (hcheck.trans (if_neg (not_or.2 ⟨h0, h1⟩)))⟩
  obtain ⟨evs, hsend, hkeep⟩ := send_eq_control_append s v (mode == 1)
  exact ⟨_, evs, exec_emits _ hs (hcheck.trans (if_pos hm)) rfl, congrArg (s.trace ++ ·) hsend, hkeep⟩

/-- Settles O23: all four requests are one `send` and differ in RS and in what they return. -/
theorem sendCommandWriteResult : Obligations.SendCommandWriteResult := by
  intro s i v rs res ⟨⟨hs, hl⟩, h0, hm⟩ hi
  have hsend : checkOf i s = none ∧ bodyOf i s = emits (send s v rs) ++ ret res := by
    obtain ⟨rfl, rfl, rfl⟩ | ⟨rfl, rfl, rfl⟩ | ⟨rfl, rfl, rfl⟩ | ⟨rfl, rfl, rfl⟩ := hi
    · exact ⟨checkOf_send hl v 0, rfl⟩
    · exact ⟨checkOf_send hl v 1, rfl⟩
    · exact ⟨checkBus_ready s hl, rfl⟩
    · exact ⟨checkBus_ready s hl, rfl⟩
  refine ⟨send s v rs, ?_, transfersFrom_send s s.lines v rs h0 hm, length_send s v rs h0 hm⟩
  rw [exec_emits i hs hsend.1 hsend.2, replay_send s s.lines v rs h0 hm]

end Sys2Proof.Machine
end

section
/-! PROOFS. What every request's events have in common: they are built of harmless single events and of whole, timed pulses,
so EN is held and settles, the bus is still while it is high, and RW is only driven low (R142, R143, R153). -/

namespace Sys2Proof.Machine

/-! ### Orderly lists of events -/

/-- A single event that raises neither EN nor RW, and drives RW only when it is wired. -/
def Event.harmless (wired : Bool) : Event → Bool
  | .enableClock _ => true
  | .configureOutput _ _ => true
  | .setLevel .en _ _ b => !b
  | .setLevel .rw _ _ b => wired && !b
  | .setLevel .rs _ _ _ => true
  | .setLevel (.d _) _ _ _ => true
  | .delayMs _ => true

theorem Event.raisesEN_of_harmless {wired : Bool} {e : Event} (he : e.harmless wired = true) : e.raisesEN = false := by
  cases e with
  | setLevel r p q b =>
    cases r with
    | en =>
      obtain rfl : b = false := by simpa [Event.harmless] using he
      rfl
    | _ => rfl
  | _ => rfl

/-- A list of harmless events and of pulses with nothing between their edges but the delays of the parameters (R141). -/
inductive Orderly (wired : Bool) (c : Config) : List Event → Prop where
  | nil : Orderly wired c []
  | harmless {e : Event} {es : List Event} (he : e.harmless wired = true) (hes : Orderly wired c es) :
      Orderly wired c (e :: es)
  | pulse (p : Port) (q : Byte) {es : List Event} (hes : Orderly wired c es) :
      Orderly wired c
        (.setLevel .en p q true :: .delayMs c.tEnHigh :: .setLevel .en p q false :: .delayMs c.tEnSettle :: es)

variable {wired : Bool} {c : Config} {es : List Event}

theorem Orderly.append {fs : List Event} (ha : Orderly wired c es) (hb : Orderly wired c fs) :
    Orderly wired c (es ++ fs) := by
  induction ha with
  | nil => exact hb
  | harmless he _ ih => exact .harmless he ih
  | pulse p q _ ih => exact .pulse p q ih

theorem Orderly.flatMap {α : Type} {f : α → List Event} (hf : ∀ a, Orderly wired c (f a)) (xs : List α) :
    Orderly wired c (xs.flatMap f) := by
  induction xs with
  | nil => exact .nil
  | cons x xs ih => exact (hf x).append ih

theorem Orderly.of_harmless (h : ∀ e ∈ es, e.harmless wired = true) : Orderly wired c es := by
  induction es with
  | nil => exact .nil
  | cons e es ih => exact .harmless (h e List.mem_cons_self) (ih fun e' he => h e' (List.mem_cons_of_mem _ he))

theorem Orderly.delay (n : Nat) : Orderly wired c [.delayMs n] := .harmless rfl .nil

/-- Every rising EN is the head of a pulse, whose delays are the parameters' (R143, R9). -/
theorem Orderly.pulsesTimed (hc : c.Ok) (h : Orderly wired c es) : pulsesTimed es = true := by
  obtain ⟨-, -, -, -, -, hhigh, hsettle, -⟩ := hc
  induction h with
  | nil => rfl
  | harmless he _ ih => simpa [Machine.pulsesTimed, Event.raisesEN_of_harmless he] using ih
  | pulse p q _ ih => simpa [Machine.pulsesTimed, Event.raisesEN, hhigh, hsettle] using ih

/-- EN is high only inside a pulse, which has nothing but a delay between its edges (R142). -/
theorem Orderly.quietWhileHigh (h : Orderly wired c es) : quietWhileHigh false es = true := by
  induction h with
  | nil => rfl
  | @harmless e es he _ ih =>
    cases e with
    | setLevel r p q b =>
      cases r with
      | en =>
        obtain rfl : b = false := by simpa [Event.harmless] using he
        exact ih
      | _ => simpa [Machine.quietWhileHigh] using ih
    | _ => simpa [Machine.quietWhileHigh] using ih
  | pulse p q _ ih => simpa [Machine.quietWhileHigh] using ih

/-- RW is driven by harmless events only (R153). -/
theorem Orderly.rwQuiet (h : Orderly wired c es) : rwQuiet wired es := by
  induction h with
  | nil => simp [Machine.rwQuiet]
  | harmless he _ ih =>
    intro e hmem p q b hrw
    obtain rfl | hmem := List.mem_cons.1 hmem
    · subst hrw
      simpa [Event.harmless] using he
    · exact ih e hmem p q b hrw
  | pulse p q _ ih => simpa [Machine.rwQuiet] using ih

/-! ### The sub-procedures -/

variable (s : State)

theorem orderly_pulseEnable : Orderly s.wiredRW s.cfg (pulseEnable s) :=
  .harmless rfl (.harmless rfl (.pulse _ _ .nil))

theorem orderly_driveLines (ix : List (Fin 8)) (v : Byte) : Orderly s.wiredRW s.cfg (driveLines s ix v) := by
  refine .of_harmless fun e he => ?_
  obtain ⟨j, -, rfl⟩ := List.mem_map.1 he
  rfl

theorem orderly_write4bits (v : Byte) : Orderly s.wiredRW s.cfg (write4bits s v) :=
  (orderly_driveLines s lowLines v).append (orderly_pulseEnable s)

theorem orderly_write8bits (v : Byte) : Orderly s.wiredRW s.cfg (write8bits s v) :=
  (orderly_driveLines s allLines v).append (orderly_pulseEnable s)

/-- RW low is harmless where it is wired, the only place it is driven (R153). -/
theorem orderly_rwLow : Orderly s.wiredRW s.cfg (if s.wiredRW then [s.setLevel .rw false] else []) := by
  split
  · next hw => exact .harmless (by simp [State.setLevel, Event.harmless, hw]) .nil
  · exact .nil

theorem orderly_send (v : Byte) (rs : Bool) : Orderly s.wiredRW s.cfg (send s v rs) := by
  refine .append (.append (.harmless rfl .nil) (orderly_rwLow s)) ?_
  split
  · exact orderly_write8bits s v
  · exact (orderly_write4bits s _).append (orderly_write4bits s v)

/-- Writes that keep the pin map keep what resolving a role reads (R59). -/
theorem State.writeAll_sameMap {ws : List RegWrite} (h : ∀ w ∈ ws, w.keepsBus = true) : (s.writeAll ws).SameMap s := by
  rw [← State.run_writes]
  exact s.run_sameMap (by rwa [writesOf_writes])

/-- A list of events that is orderly for one state is so for every state with its pin map and parameters. -/
theorem State.SameMap.orderly {s t : State} (h : t.SameMap s) (ho : Orderly t.wiredRW t.cfg es) :
    Orderly s.wiredRW s.cfg es := by
  rwa [← h.wiredRW, ← h.cfg]

/-- A feature toggle that keeps the pin map sends one command (R214). -/
theorem orderly_toggle {i : Instr} {cmd : State → Byte} (hi : isBinding i = false)
    (hb : bodyOf i s = reissue (regWrites i) cmd s) : Orderly s.wiredRW s.cfg (eventsOf (bodyOf i s)) := by
  have hev : eventsOf (bodyOf i s) = send (s.writeAll (regWrites i)) (cmd (s.writeAll (regWrites i))) false := by
    simp [hb, reissue, command]
  rw [hev]
  exact (s.writeAll_sameMap (regWrites_keepsBus hi)).orderly (orderly_send _ _ _)

/-! ### BEGIN -/

theorem orderly_beginS2 : Orderly wired c (beginS2 s) := by
  refine .of_harmless fun e he => ?_
  obtain hclock | hconf := List.mem_append.1 he
  · obtain ⟨p, -, rfl⟩ := List.mem_map.1 hclock
    rfl
  · obtain ⟨r, -, rfl⟩ := List.mem_map.1 hconf
    rfl

theorem orderly_beginS4 : Orderly s.wiredRW s.cfg (beginS4 s) :=
  .harmless rfl (.harmless rfl (orderly_rwLow s))

/-- Both handshakes are transmissions and delays (R176, R177). -/
theorem orderly_beginS5 : Orderly s.wiredRW s.cfg (beginS5 s) := by
  have hcmd (n : Nat) : Orderly s.wiredRW s.cfg (command s (cmdFunction s.function) ++ [.delayMs n]) :=
    (orderly_send s _ _).append (.delay n)
  have hnib (n : Nat) : Orderly s.wiredRW s.cfg (write4bits s nibbleReset ++ [.delayMs n]) :=
    (orderly_write4bits s _).append (.delay n)
  simp only [beginS5, List.append_assoc]
  split
  · simpa using (hcmd s.cfg.tInit1).append ((hcmd s.cfg.tInit2).append (hcmd s.cfg.tInit3))
  · simpa using (hnib s.cfg.tInit1).append ((hnib s.cfg.tInit2).append ((hnib s.cfg.tInit3).append
      (orderly_write4bits s nibbleFourBit)))

theorem orderly_beginS7 : Orderly s.wiredRW s.cfg (beginS7 s) := orderly_send s _ _

theorem orderly_beginS8 : Orderly s.wiredRW s.cfg (beginS8 s) := (orderly_send s _ _).append (.delay _)

theorem orderly_beginS9 : Orderly s.wiredRW s.cfg (beginS9 s) := orderly_send s _ _

/-- The steps that read the registers as S1 left them (R174 to R178). -/
theorem orderly_beginS3toS6 : Orderly s.wiredRW s.cfg (beginS3 s ++ beginS4 s ++ beginS5 s ++ beginS6 s) :=
  (((Orderly.delay _).append (orderly_beginS4 s)).append (orderly_beginS5 s)).append (orderly_send s _ _)

/-- Each later step of BEGIN is orderly in the state whose registers it reads, and these states have one pin map (R183). -/
theorem orderly_beginAfterS2 (cols rows font : Byte) : Orderly s.wiredRW s.cfg (beginAfterS2 cols rows font s) := by
  have h1 := writeAll_beginWritesS1_sameMap s cols rows font
  have h7 := (s.writeAll (beginWritesS1 cols rows font)).writeAll_sameMap (ws := beginWritesS7) (by decide)
  have h9 := ((s.writeAll (beginWritesS1 cols rows font)).writeAll beginWritesS7).writeAll_sameMap
    (ws := beginWritesS9) (by decide)
  have hs7 := (orderly_beginS3toS6 _).append (h7.orderly (orderly_beginS7 _))
  have hs8 := hs7.append (h7.orderly (orderly_beginS8 _))
  exact h1.orderly (hs8.append (h7.orderly (h9.orderly (orderly_beginS9 _))))

theorem orderly_bodyBegin (cols rows font : Byte) : Orderly s.wiredRW s.cfg (eventsOf (bodyBegin cols rows font s)) := by
  rw [eventsOf_bodyBegin]
  exact (orderly_beginS2 s).append (orderly_beginAfterS2 s cols rows font)

/-! ### Every request -/

/-- A request that only emits events and returns is as orderly as its events. -/
theorem Orderly.emitted (h : Orderly wired c es) (v : Option Byte) : Orderly wired c (eventsOf (emits es ++ ret v)) := by
  simpa using h

/-- PRINT sends the bytes before its first 0x00 (R240, R243). -/
theorem orderly_bodyPrint (n : Byte) (text : List Byte) : Orderly s.wiredRW s.cfg (eventsOf (bodyPrint n text s)) := by
  unfold bodyPrint
  split
  · exact .nil
  · rw [printLoop_eq]
    exact (Orderly.flatMap (fun p => orderly_send s p true) _).emitted _

/-- What a request emits is orderly: it calls the sub-procedures and waits (R141, R153). -/
theorem orderly_bodyOf (i : Instr) : Orderly s.wiredRW s.cfg (eventsOf (bodyOf i s)) := by
  cases i with
  | bindCtrl | bindData4 | bindData8 => exact .nil
  | begin cols rows font => exact orderly_bodyBegin s cols rows font
  | pulseEnable => exact (orderly_pulseEnable s).emitted _
  | write4bits v => exact (orderly_write4bits s v).emitted _
  | write8bits v => exact (orderly_write8bits s v).emitted _
  | send | command | write | scrollLeft | scrollRight | setCursor => exact (orderly_send s _ _).emitted _
  | clear | home => exact ((orderly_send s _ _).append (.delay _)).emitted _
  | createChar =>
    exact ((orderly_send s _ _).append (.flatMap (fun p => orderly_send s p true) _)).emitted _
  | displayOn | displayOff | cursorOn | cursorOff =>
    exact orderly_toggle s (cmd := fun t => cmdControl t.control) rfl rfl
  | autoscrollOn | autoscrollOff | leftToRight | rightToLeft =>
    exact orderly_toggle s (cmd := fun t => cmdEntryMode t.entryMode) rfl rfl
  | print n text => exact orderly_bodyPrint s n text

/-- What `exec` emits is orderly; a refused request emits nothing (R251). -/
theorem orderly_newEvents {s t : State} {i : Instr} (h : exec i s = .next t) :
    Orderly s.wiredRW s.cfg (newEvents s t) := by
  obtain ⟨r, rfl⟩ | ⟨-, -, rfl⟩ := exec_cases s h
  · rw [newEvents_refuse]
    exact .nil
  · rw [newEvents_run]
    exact orderly_bodyOf s i

/-- Settles O41: a pulse is held and settles for the parameters' delays. -/
theorem everyPulseIsTimed : Obligations.EveryPulseIsTimed :=
  fun _ _ _ hc h => (orderly_newEvents h).pulsesTimed hc

/-- The events of `exec` are what it adds to the trace (R14). -/
theorem trace_append_newEvents {s t : State} {i : Instr} (h : exec i s = .next t) : s.trace ++ newEvents s t = t.trace := by
  obtain ⟨r, rfl⟩ | ⟨-, -, rfl⟩ := exec_cases s h
  · rw [newEvents_refuse, List.append_nil, State.refuse_trace]
  · rw [newEvents_run, State.run_trace]

/-- Settles O42: EN is high only inside a pulse, and no pulse holds another bus event. -/
theorem busQuietWhileEnableHigh : Obligations.BusQuietWhileEnableHigh :=
  fun _ _ _ h => ⟨(orderly_newEvents h).quietWhileHigh, trace_append_newEvents h⟩

/-- Settles O43: a pulse has no event on RW, and the other events are harmless. -/
theorem rwOnlyDrivenLow : Obligations.RwOnlyDrivenLow :=
  fun _ _ _ h => (orderly_newEvents h).rwQuiet

end Sys2Proof.Machine
end

section
/-! PROOFS. The phases of BEGIN (R171), each with the events it emits in terms of the registers BEGIN was accepted with: their
counts, and the phase a position of a running BEGIN lies in. -/

namespace Sys2Proof.Machine

/-! ### The configuration bytes BEGIN leaves -/

/-- `function` after step S1: N for more than one row, F for a taller font on one row, only ever set (R172, R184). -/
def beginFunction (rows font function : Byte) : Byte :=
  let f1 := if 1 < rows.toNat then function ||| 0x08 else function
  if font ≠ 0 ∧ rows = 1 then f1 ||| 0x04 else f1

/-- `control` after step S7: display on, cursor and blink off (R179). -/
def beginControl (control : Byte) : Byte := (control &&& 0xF8) ||| 0x04

/-- `entryMode` after step S9: left-to-right, no autoscroll (R181). -/
def beginEntryMode (entryMode : Byte) : Byte := (entryMode &&& 0xFC) ||| 0x02

variable (s : State) (cols rows font : Byte)

theorem writeAll_beginWritesS1 : s.writeAll (beginWritesS1 cols rows font) =
    { s with lifecycle := .initializing, numRows := rows.toNat, rowOffset := rowTable cols,
             function := beginFunction rows font s.function } := by
  simp only [beginWritesS1, beginFunction]
  split_ifs <;> rfl

theorem writeAll_beginWritesS7 : s.writeAll beginWritesS7 = { s with control := beginControl s.control } := by
  have hbits : ∀ c : Byte, (c ||| maskD) &&& ~~~maskC &&& ~~~maskB = beginControl c := by decide
  simp [beginWritesS7, hbits]

theorem writeAll_beginWritesS9 : s.writeAll beginWritesS9 = { s with entryMode := beginEntryMode s.entryMode } := by
  have hbits : ∀ m : Byte, (m ||| maskID) &&& ~~~maskS = beginEntryMode m := by decide
  simp [beginWritesS9, hbits]

/-- Step S1 keeps DL (R183). -/
theorem beginFunction_getLsbD_four (f : Byte) : (beginFunction rows font f).getLsbD 4 = f.getLsbD 4 := by
  simp only [beginFunction]
  split_ifs <;> simp

/-! ### The handshake -/

/-- One attempt of the handshake: a function-set command in 8-bit mode, the bare nibble 3 in 4-bit mode (R176, R177). -/
def handshakeAttempt (f : Byte) : List Event :=
  if s.dl then command s (cmdFunction f) else write4bits s nibbleReset

/-- The handshake: three attempts with their delays, and in 4-bit mode the nibble that commits to it (R176, R177). -/
def handshake (f : Byte) : List Event :=
  [s.cfg.tInit1, s.cfg.tInit2, s.cfg.tInit3].flatMap (fun n => handshakeAttempt s f ++ [.delayMs n]) ++
    if s.dl then [] else write4bits s nibbleFourBit

theorem beginS5_eq_handshake : beginS5 s = handshake s s.function := by
  cases hd : s.dl <;> simp [beginS5, handshake, handshakeAttempt, hd]

/-! ### The events of each phase -/

variable {s} in
/-- The later steps' registers have the pin map, the parameters and DL that BEGIN was accepted with (R183), so their events
are those of the accepting state. -/
theorem handshake_congr {t : State} (h : t.SameMap s) (hdl : t.dl = s.dl) (f : Byte) : handshake t f = handshake s f := by
  simp [handshake, handshakeAttempt, hdl, h.cfg, command, send_congr h hdl, write4bits, driveLines, pulseEnable,
    State.setLevel, h.resolve]

variable {s} in
theorem beginS4_congr {t : State} (h : t.SameMap s) : beginS4 t = beginS4 s := by
  simp [beginS4, State.setLevel, h.resolve, h.wiredRW]

/-- The phases of BEGIN with the events of each, all of the accepting state (R171, R173 to R181). -/
def beginPhaseEvents : List (InitPhase × List Event) :=
  [(.S1, []),
   (.S2, beginS2 s),
   (.S3, [.delayMs s.cfg.tPowerOn]),
   (.S4, beginS4 s),
   (.S5, handshake s (beginFunction rows font s.function)),
   (.S6, command s (cmdFunction (beginFunction rows font s.function))),
   (.S7, command s (cmdControl (beginControl s.control))),
   (.S8, command s cmdClear ++ [.delayMs s.cfg.tClear]),
   (.S9, command s (cmdEntryMode (beginEntryMode s.entryMode)))]

/-- The writes of BEGIN up to the end of one of its steps keep the pin map and DL (R183). -/
theorem writeAll_beginWrites_bus {ws : List RegWrite}
    (h : ws <+: beginWritesS1 cols rows font ++ beginWritesS7 ++ beginWritesS9) :
    (s.writeAll ws).SameMap s ∧ (s.writeAll ws).dl = s.dl := by
  have hbus : ∀ w ∈ writesOf (writes ws), w.keepsBus = true := fun w hw =>
    regWrites_keepsBus (i := .begin cols rows font) rfl w
      (List.mem_append_left _ (h.subset (by rwa [writesOf_writes] at hw)))
  rw [← State.run_writes]
  exact ⟨s.run_sameMap hbus, s.run_dl hbus⟩

/-- What each phase of BEGIN emits. -/
theorem beginPhases_events :
    (beginPhases cols rows font s).map (fun ph => (ph.1, eventsOf ph.2)) = beginPhaseEvents s rows font := by
  obtain ⟨hmap1, hdl1⟩ := writeAll_beginWrites_bus s cols rows font (ws := beginWritesS1 cols rows font) (by simp)
  obtain ⟨hmap7, hdl7⟩ := writeAll_beginWrites_bus s cols rows font (List.prefix_append _ _)
  obtain ⟨hmap9, hdl9⟩ := writeAll_beginWrites_bus s cols rows font (List.prefix_refl _)
  rw [State.writeAll_append] at hmap7 hdl7
  rw [State.writeAll_append, State.writeAll_append] at hmap9 hdl9
  simp only [beginPhases, beginPhaseEvents, List.map_cons, List.map_nil, eventsOf_append, eventsOf_writes, eventsOf_emits,
    eventsOf_ret, List.nil_append, List.append_nil, beginS2_congr hmap1, beginS3, hmap1.cfg, beginS4_congr hmap1,
    beginS5_eq_handshake, handshake_congr hmap1 hdl1, beginS6, beginS7, beginS8, hmap7.cfg, beginS9, command,
    send_congr hmap1 hdl1, send_congr hmap7 hdl7, send_congr hmap9 hdl9]
  simp only [writeAll_beginWritesS1, writeAll_beginWritesS7, writeAll_beginWritesS9]

/-! ### The number of events of each phase -/

theorem length_write4bits (v : Byte) : (write4bits s v).length = 4 + 6 := rfl

theorem length_dataLines : s.dataLines.length = s.dataCount.count := by
  cases hc : s.dataCount <;> simp [State.dataLines, hc, DataCount.count, allLines]

theorem length_activeRoles : s.activeRoles.length = 2 + s.wiredCount + s.dataCount.count := by
  cases hw : s.wiredRW <;> simp [State.activeRoles, State.wiredCount, hw, length_dataLines] <;> omega

theorem length_beginS2 : (beginS2 s).length = s.clockPorts.length + s.activeRoles.length := by simp [beginS2]

theorem length_beginS4 : (beginS4 s).length = 2 + s.wiredCount := by
  cases hw : s.wiredRW <;> simp [beginS4, State.wiredCount, hw]

/-- In 8-bit mode the handshake is three bytes, in 4-bit mode four nibbles, each with three delays (R176, R177). -/
theorem length_handshake (f : Byte) (h0 : s.dataCount ≠ .zero) (hm : s.ModeOk) :
    (handshake s f).length = if s.dataCount = .eight then 3 * s.byteEvents + 3 else 4 * 10 + 3 := by
  cases hc : s.dataCount with
  | zero => exact absurd hc h0
  | four => simp [handshake, handshakeAttempt, hm.1 hc, length_write4bits]
  | eight =>
    simp [handshake, handshakeAttempt, hm.2 hc, command, length_send s _ _ h0 hm]
    omega

/-- The table of R171. -/
theorem beginPhases_counts (h0 : s.dataCount ≠ .zero) (hm : s.ModeOk) :
    (beginPhases cols rows font s).map (fun ph => (ph.1, (eventsOf ph.2).length)) =
      [(.S1, 0), (.S2, s.clockPorts.length + 2 + s.wiredCount + s.dataCount.count), (.S3, 1), (.S4, 2 + s.wiredCount),
       (.S5, if s.dataCount = .eight then 3 * s.byteEvents + 3 else 4 * 10 + 3), (.S6, s.byteEvents), (.S7, s.byteEvents),
       (.S8, s.byteEvents + 1), (.S9, s.byteEvents)] := by
  have hcounts := congrArg (List.map fun ph => (ph.1, ph.2.length)) (beginPhases_events s cols rows font)
  rw [List.map_map] at hcounts
  refine hcounts.trans ?_
  simp [beginPhaseEvents, length_beginS2, length_activeRoles, length_beginS4, length_handshake s _ h0 hm, command,
    length_send s _ _ h0 hm, Nat.add_assoc]

/-! ### The phase of a position -/

/-- The phase that holds a position when the phases, with their numbers of events, start at position `start`. -/
def phaseFrom : Nat → List (InitPhase × Nat) → Nat → InitPhase
  | _, [], _ => .S9
  | start, (p, n) :: rest, pos => if pos < start + n then p else phaseFrom (start + n) rest pos

/-- The phase of a position depends on the numbers of events only. -/
theorem phaseAt_eq_phaseFrom (phases : List (InitPhase × List Micro)) {start pos : Nat} (h : start ≤ pos) :
    phaseAt phases (pos - start) = phaseFrom start (phases.map fun ph => (ph.1, (eventsOf ph.2).length)) pos := by
  induction phases generalizing start with
  | nil => rfl
  | cons ph phases ih =>
    obtain ⟨p, ms⟩ := ph
    simp only [phaseAt, List.map_cons, phaseFrom, Nat.sub_lt_iff_lt_add' h, Nat.sub_sub]
    split
    next => rfl
    next hpos => exact ih (Nat.le_of_not_lt hpos)

/-- Settles O25: the phases' events are counted in the accepting state, and a position's phase follows from the counts. -/
theorem beginPhaseEventCounts : Obligations.BeginPhaseEventCounts := by
  intro s cols rows font h0 hm
  have hcounts := beginPhases_counts s cols rows font h0 hm
  refine ⟨hcounts, rfl, fun pos rest hseq => ?_⟩
  have hphase := phaseAt_eq_phaseFrom (beginPhases cols rows font s) (Nat.zero_le pos)
  rw [hcounts] at hphase
  have hinit : s.initPhase = some (phaseAt (beginPhases cols rows font s) pos) := by simp [State.initPhase, hseq]
  rw [hinit, ← Nat.sub_zero pos, hphase]
  simp only [phaseFrom, Nat.add_zero, Nat.not_lt_zero, if_false, Nat.zero_add, ite_self]
  have hthree : 3 * s.byteEvents = s.byteEvents + s.byteEvents + s.byteEvents := by omega
  simp only [Nat.sub_zero, Nat.two_mul, hthree, Nat.add_assoc]

end Sys2Proof.Machine
end

section
/-! PROOFS. The events of a whole BEGIN: its delays in both bus modes, and the handshake of the 4-bit mode event by event. -/

namespace Sys2Proof.Machine

/-! ### The events of a BEGIN -/

variable (s : State)

/-- The events of a BEGIN accepted in state `s`, phase by phase (R170). -/
def beginEvents (rows font : Byte) : List Event := ((beginPhaseEvents s rows font).map Prod.snd).flatten

theorem eventsOf_flatten (parts : List (List Micro)) : eventsOf parts.flatten = (parts.map eventsOf).flatten := by
  induction parts with
  | nil => rfl
  | cons ms parts ih => simp [ih]

theorem eventsOf_bodyBegin_eq (cols rows font : Byte) : eventsOf (bodyBegin cols rows font s) = beginEvents s rows font := by
  rw [bodyBegin, eventsOf_flatten, beginEvents, ← beginPhases_events s cols rows font, List.map_map, List.map_map]
  rfl

/-- What an accepted BEGIN adds to the trace. -/
theorem newEvents_begin {t : State} {cols rows font : Byte} (hs : s.seq = .idle)
    (hc : checkOf (.begin cols rows font) s = none) (h : exec (.begin cols rows font) s = .next t) :
    newEvents s t = beginEvents s rows font := by
  rw [exec_accepted s _ hs hc] at h
  obtain rfl := Host.Outcome.next.inj h
  rw [newEvents_run, bodyOf, eventsOf_bodyBegin_eq]

/-! ### Delays -/

@[simp] theorem delaysOf_nil : delaysOf [] = [] := rfl
@[simp] theorem delaysOf_cons_delayMs (n : Nat) (es : List Event) : delaysOf (.delayMs n :: es) = n :: delaysOf es := rfl
@[simp] theorem delaysOf_append (a b : List Event) : delaysOf (a ++ b) = delaysOf a ++ delaysOf b := by simp [delaysOf]
@[simp] theorem delaysOf_cons_setLevel (r : Role) (b : Bool) (es : List Event) :
    delaysOf (s.setLevel r b :: es) = delaysOf es := rfl

/-- The delays of one pulse (R141). -/
def State.pulseDelays : List Nat := [s.cfg.tEnPre, s.cfg.tEnHigh, s.cfg.tEnSettle]

theorem delaysOf_write4bits (v : Byte) : delaysOf (write4bits s v) = s.pulseDelays := rfl
theorem delaysOf_write8bits (v : Byte) : delaysOf (write8bits s v) = s.pulseDelays := rfl

/-- A command has one pulse in 8-bit mode and two in 4-bit mode (R152). -/
theorem delaysOf_command (v : Byte) :
    delaysOf (command s v) = if s.dl then s.pulseDelays else s.pulseDelays ++ s.pulseDelays := by
  cases hw : s.wiredRW <;> cases hd : s.dl <;> simp [command, send, hw, hd, delaysOf_write4bits, delaysOf_write8bits]

/-- Enabling clocks and configuring outputs takes no delay (R173). -/
theorem delaysOf_beginS2 : delaysOf (beginS2 s) = [] := by simp [delaysOf, beginS2]

theorem delaysOf_beginS4 : delaysOf (beginS4 s) = [] := by cases hw : s.wiredRW <;> simp [beginS4, hw]

/-- Every attempt of the handshake is one pulse, in both modes (R176, R177). -/
theorem delaysOf_handshakeAttempt (f : Byte) : delaysOf (handshakeAttempt s f) = s.pulseDelays := by
  cases hd : s.dl <;> simp [handshakeAttempt, hd, delaysOf_command, delaysOf_write4bits]

theorem delaysOf_handshake (f : Byte) :
    delaysOf (handshake s f) =
      s.pulseDelays ++ [s.cfg.tInit1] ++ s.pulseDelays ++ [s.cfg.tInit2] ++ s.pulseDelays ++ [s.cfg.tInit3] ++
        if s.dl then [] else s.pulseDelays := by
  cases hd : s.dl <;> simp [handshake, hd, delaysOf_handshakeAttempt, delaysOf_write4bits]

/-- DL says whether eight data pins are bound (R42). -/
theorem State.ModeOk.dl_iff {s : State} (hm : s.ModeOk) (h0 : s.dataCount ≠ .zero) :
    s.dl = true ↔ s.dataCount = .eight := by
  cases hc : s.dataCount with
  | zero => exact absurd hc h0
  | four => simp [hm.1 hc]
  | eight => simp [hm.2 hc]

/-- Settles O28: the delays of each phase, and DL told by the number of data pins. -/
theorem beginDelaysInOrder : Obligations.BeginDelaysInOrder := by
  intro s t cols rows font hs h1 h4 hb h0 hm ha hexec
  rw [newEvents_begin s hs (checkOf_begin_eq_none h1 h4 hb h0 ha) hexec]
  simp only [← hm.dl_iff h0]
  simp [beginEvents, beginPhaseEvents, delaysOf_beginS2, delaysOf_beginS4, delaysOf_handshake, delaysOf_command,
    State.pulseDelays]

/-! ### The 4-bit handshake -/

/-- In 4-bit mode: three bare nibbles 3 with their delays, then the nibble 2 (R176). -/
theorem handshake_fourBit (f : Byte) (hd : s.dl = false) :
    handshake s f =
      write4bits s nibbleReset ++ .delayMs s.cfg.tInit1 :: (write4bits s nibbleReset ++ .delayMs s.cfg.tInit2 ::
        (write4bits s nibbleReset ++ .delayMs s.cfg.tInit3 :: write4bits s nibbleFourBit)) := by
  simp [handshake, handshakeAttempt, hd]

/-- A command drives RS first (R152). -/
theorem command_eq_cons (v : Byte) : ∃ evs, command s v = s.setLevel .rs false :: evs := ⟨_, rfl⟩

/-- The command-ready state written out for a wired and an unwired RW (R175). -/
theorem beginS4_eq :
    beginS4 s =
      if s.pinRW ≠ 0xFF then [s.setLevel .rs false, s.setLevel .en false, s.setLevel .rw false]
      else [s.setLevel .rs false, s.setLevel .en false] := by
  simp only [beginS4, wiredRW_iff]
  split <;> rfl

/-- Settles O27: after step S2 come the settle, the command-ready state and the handshake, and the next command's RS. -/
theorem fourBitHandshakeEvents : Obligations.FourBitHandshakeEvents := by
  intro s cols rows font hs h1 h4 hb hc hm ha
  have h0 : s.dataCount ≠ .zero := by simp [hc]
  have hcheck := checkOf_begin_eq_none (cols := cols) (font := font) h1 h4 hb h0 ha
  have hexec := exec_accepted s _ hs hcheck
  refine ⟨_, hexec, ?_⟩
  obtain ⟨evs, hcmd⟩ := command_eq_cons s (cmdFunction (beginFunction rows font s.function))
  rw [newEvents_begin s hs hcheck hexec, ← length_beginS2]
  have hsplit : beginEvents s rows font = beginS2 s ++ ((.delayMs s.cfg.tPowerOn :: (beginS4 s ++
      (handshake s (beginFunction rows font s.function) ++ [s.setLevel .rs false]))) ++ (evs ++
      (command s (cmdControl (beginControl s.control)) ++ (command s cmdClear ++ .delayMs s.cfg.tClear ::
        command s (cmdEntryMode (beginEntryMode s.entryMode)))))) := by
    simp [beginEvents, beginPhaseEvents, hcmd]
  rw [hsplit, List.drop_left, List.take_left', handshake_fourBit _ _ (hm.1 hc), beginS4_eq]
  · simp only [List.append_assoc, List.cons_append]
    rfl
  · simp [length_beginS4, length_handshake _ _ h0 hm, hc]
    omega

end Sys2Proof.Machine
end

section
/-! PROOFS. BEGIN as a whole: its refusals in order, the registers and lines it leaves, and the transfers it makes. -/

namespace Sys2Proof.Machine

/-! ### Refusals -/

variable (s : State)

theorem badRows_eq_false (rows : Byte) : badRows rows = false ↔ 1 ≤ rows.toNat ∧ rows.toNat ≤ 4 := by
  simp [badRows]

theorem State.notBound_iff : s.notBound = true ↔ s.ctrlBound = false ∨ s.dataCount = .zero := by
  simp [State.notBound]

theorem nodup_dataLines : s.dataLines.Nodup := by
  cases h : s.dataCount <;> simp only [State.dataLines, h] <;> decide

theorem nodup_activeRoles : s.activeRoles.Nodup := by
  have hdata : (s.dataLines.map Role.d).Nodup := (nodup_dataLines s).map fun _ _ h => Role.d.inj h
  cases hw : s.wiredRW <;> simp [State.activeRoles, hw, hdata]

/-- No two wired roles share a pin exactly when wired roles with one pin are one role (R128). -/
theorem aliasFree_iff :
    s.aliasFree = true ↔ ∀ r ∈ s.activeRoles, ∀ q ∈ s.activeRoles, s.resolve r = s.resolve q → r = q := by
  rw [State.aliasFree, decide_eq_true_eq, List.nodup_map_iff_inj_on (nodup_activeRoles s)]

/-- Settles O13: the three checks in their order. -/
theorem beginRefusalsInOrder : Obligations.BeginRefusalsInOrder := by
  intro s cols rows font hs
  refine ⟨fun hrows => ?_, fun hrows hbound => ?_, fun hrows hctrl hdata halias => ?_⟩ <;>
    refine exec_refused s _ hs ?_
  · have hbad : badRows rows = true := by simpa using mt (badRows_eq_false rows).1 hrows
    simp [checkOf, checkBegin, firstReason, hbad]
  · simp [checkOf, checkBegin, firstReason, (badRows_eq_false rows).2 hrows, s.notBound_iff.2 hbound]
  · have hbound : s.notBound = false := by simpa using mt s.notBound_iff.1 (not_or.2 ⟨by simp [hctrl], hdata⟩)
    have hshared : s.aliasFree = false := by simpa using mt (aliasFree_iff s).1 halias
    simp [checkOf, checkBegin, firstReason, (badRows_eq_false rows).2 hrows, hbound, hshared]

/-! ### The registers -/

theorem State.write_withBus (tr : List Event) (ls : Lines) (w : RegWrite) :
    ({ s with trace := tr, lines := ls } : State).write w = { s.write w with trace := tr, lines := ls } := by
  cases w with | set r _ => cases r <;> rfl | clr r _ => cases r <;> rfl | _ => rfl

/-- Register writes and the bus do not depend on each other (R35, R58). -/
theorem State.writeAll_withBus (tr : List Event) (ls : Lines) (ws : List RegWrite) :
    ({ s with trace := tr, lines := ls } : State).writeAll ws = { s.writeAll ws with trace := tr, lines := ls } := by
  induction ws generalizing s with
  | nil => rfl
  | cons w ws ih => rw [State.writeAll_cons, State.write_withBus, ih, State.writeAll_cons]

/-- The registers after a run are what its writes alone make them: no event changes a register (R14). -/
theorem State.run_registers (ms : List Micro) :
    s.run ms = { s.writeAll (writesOf ms) with trace := (s.run ms).trace, lines := (s.run ms).lines } := by
  induction ms generalizing s with
  | nil => rfl
  | cons m ms ih =>
    cases m with
    | write w => exact ih (s.write w)
    | emit e => exact (ih (s.emit e)).trans (by rw [State.emit, State.writeAll_withBus]; rfl)

theorem writesOf_bodyBegin (cols rows font : Byte) :
    writesOf (bodyBegin cols rows font s) =
      beginWritesS1 cols rows font ++ beginWritesS7 ++ beginWritesS9 ++ [.lifecycle .ready, .result none] := by
  simp [bodyBegin, beginPhases]

/-- BEGIN's writes, its events and the lines they leave (R170). -/
theorem run_bodyBegin (cols rows font : Byte) :
    s.run (bodyBegin cols rows font s) =
      { s with function := beginFunction rows font s.function, control := beginControl s.control,
               entryMode := beginEntryMode s.entryMode, numRows := rows.toNat, rowOffset := rowTable cols,
               lifecycle := .ready, result := none, trace := s.trace ++ beginEvents s rows font,
               lines := s.replay s.lines (beginEvents s rows font) } := by
  have hbus : ∀ w ∈ writesOf (bodyBegin cols rows font s), w.keepsBus = true :=
    bodyOf_keepsBus s (i := .begin cols rows font) rfl
  rw [State.run_registers, State.run_trace, s.run_lines hbus, writesOf_bodyBegin, eventsOf_bodyBegin_eq]
  simp only [State.writeAll_append, writeAll_beginWritesS1, writeAll_beginWritesS7, writeAll_beginWritesS9,
    State.writeAll_cons, State.writeAll_nil, State.write_lifecycle, State.write_result]

/-! ### The lines -/

variable (rs : Bool) (v : Byte) (ls : Lines)

theorem rw_mem_activeRoles : .rw ∈ s.activeRoles ↔ s.wiredRW = true := by simp [State.activeRoles]

theorem d_mem_activeRoles (i : Fin 8) : .d i ∈ s.activeRoles ↔ i.val < s.dataCount.count := by
  simp [State.activeRoles, mem_dataLines]

/-- A byte drives every wired line, so of the lines before it only the others show after it (R152). -/
theorem linesAfter_congr {ls ls' : Lines} (h : ∀ r, r ∉ s.activeRoles → ls.get r = ls'.get r) :
    s.linesAfter rs v ls = s.linesAfter rs v ls' := by
  refine Lines.ext_get fun r => ?_
  cases r with
  | rs => rfl
  | en => rfl
  | rw =>
    by_cases hw : s.wiredRW = true
    · simp [State.linesAfter, Lines.get, hw]
    · simpa [State.linesAfter, Lines.get, hw] using h .rw (mt (rw_mem_activeRoles s).1 hw)
  | d i =>
    by_cases hi : i.val < s.dataCount.count
    · simp [State.linesAfter, Lines.get, hi]
    · simpa [State.linesAfter, Lines.get, hi] using h (.d i) (mt (d_mem_activeRoles s i).1 hi)

/-- Clocks and configurations reach no line but the wired ones (R53, R59). -/
theorem linesAfter_beginS2 : s.linesAfter rs v (s.replay ls (beginS2 s)) = s.linesAfter rs v ls := by
  have hclocks (ps : List Port) : s.replay ls (ps.map .enableClock) = ls := by
    induction ps with
    | nil => rfl
    | cons p ps ih => exact ih
  have houtputs (roles : List Role) (ls : Lines) :
      s.linesAfter rs v (s.replay ls (roles.map fun r => .configureOutput (s.resolve r).1 (s.resolve r).2)) =
        s.linesAfter rs v ls := by
    induction roles generalizing ls with
    | nil => rfl
    | cons q roles ih =>
      refine (ih _).trans (linesAfter_congr s rs v fun r hr => ?_)
      refine (foldRoles_get (fun r => s.resolve r = s.resolve q) Level.configured (by intro l; cases l <;> rfl)
        s.activeRoles ls r).trans ?_
      simp [hr]
  rw [beginS2, State.replay_append, hclocks, houtputs]

theorem linesAfter_beginS4 : s.linesAfter rs v (s.replay ls (beginS4 s)) = s.linesAfter rs v ls := by
  cases hw : s.wiredRW <;> simp [beginS4, hw, State.linesAfter, Lines.put]

theorem linesAfter_write4bits (h0 : s.dataCount ≠ .zero) (n : Byte) :
    s.linesAfter rs v (s.replay ls (write4bits s n)) = s.linesAfter rs v ls := by
  rw [replay_write4bits]
  refine linesAfter_congr s rs v fun r hr => ?_
  cases r with
  | rs | rw => rfl
  | en => exact absurd (by simp [State.activeRoles]) hr
  | d i =>
    have hi : ¬ i.val < 4 := by
      cases hc : s.dataCount with
      | zero => exact absurd hc h0
      | four | eight =>
        have hunbound := mt (d_mem_activeRoles s i).2 hr
        simp only [hc, DataCount.count] at hunbound
        omega
    simp [Lines.get, hi]

theorem linesAfter_handshakeAttempt (h0 : s.dataCount ≠ .zero) (hm : s.ModeOk) (f : Byte) :
    s.linesAfter rs v (s.replay ls (handshakeAttempt s f)) = s.linesAfter rs v ls := by
  unfold handshakeAttempt
  split
  · rw [command, replay_send s ls _ _ h0 hm, linesAfter_linesAfter]
  · exact linesAfter_write4bits s rs v ls h0 _

theorem linesAfter_handshake (h0 : s.dataCount ≠ .zero) (hm : s.ModeOk) (f : Byte) :
    s.linesAfter rs v (s.replay ls (handshake s f)) = s.linesAfter rs v ls := by
  cases hd : s.dl <;>
    simp [handshake, hd, linesAfter_handshakeAttempt s rs v _ h0 hm, linesAfter_write4bits s rs v _ h0]

/-- BEGIN leaves the lines as its last byte, the entry-mode command, does (R181). -/
theorem replay_beginEvents (h0 : s.dataCount ≠ .zero) (hm : s.ModeOk) (rows font : Byte) :
    s.replay ls (beginEvents s rows font) = s.linesAfter false (cmdEntryMode (beginEntryMode s.entryMode)) ls := by
  simp [beginEvents, beginPhaseEvents, command, replay_send s _ _ _ h0 hm, linesAfter_linesAfter,
    linesAfter_handshake s _ _ _ h0 hm, linesAfter_beginS4, linesAfter_beginS2]

/-! ### The transfers -/

/-- The command-ready state of R175: RS is 0, and RW where it is wired. -/
def State.commandReady (s : State) (ls : Lines) : Prop :=
  ls.rs = .driven false ∧ (s.wiredRW = true → ls.rw = .driven false)

variable {ls}

theorem commandReady_beginS4 : s.commandReady (s.replay ls (beginS4 s)) := by
  cases hw : s.wiredRW <;> simp [State.commandReady, beginS4, hw, Lines.put]

@[simp] theorem transfersFrom_cons_delayMs (n : Nat) (es : List Event) :
    s.transfersFrom ls (.delayMs n :: es) = s.transfersFrom ls es := rfl

/-- Events that do not raise EN make no transfer (R142). -/
theorem transfersFrom_eq_nil {es : List Event} (h : ∀ e ∈ es, e.raisesEN = false) : s.transfersFrom ls es = [] := by
  induction es generalizing ls with
  | nil => rfl
  | cons e es ih =>
    simp [State.transfersFrom, h e List.mem_cons_self, ih fun e' he => h e' (List.mem_cons_of_mem _ he)]

theorem transfersFrom_beginS2 : s.transfersFrom ls (beginS2 s) = [] := by
  refine transfersFrom_eq_nil s ?_
  simp [beginS2, or_imp, forall_and, Event.raisesEN]

theorem transfersFrom_beginS4 : s.transfersFrom ls (beginS4 s) = [] := by
  cases hw : s.wiredRW <;> simp [beginS4, hw, State.transfersFrom, State.setLevel, Event.raisesEN]

/-- A bare nibble from the command-ready state is a command transfer and keeps that state (R147, R176). -/
theorem write4bits_of_commandReady (hc : s.dataCount = .four) (h : s.commandReady ls) (n : Byte) :
    s.transfersFrom ls (write4bits s n) = [s.transferOf false 4 n] ∧ s.commandReady (s.replay ls (write4bits s n)) := by
  obtain ⟨hrs, hrw⟩ := h
  rw [transfersFrom_write4bits, snapshot_lowLines (by simp [hc]), replay_write4bits]
  refine ⟨?_, hrs, hrw⟩
  cases hw : s.wiredRW <;> simp [State.transferOf, hrs, hrw, hw, hc]

/-- The transfers of the 4-bit handshake: the nibbles 3, 3, 3, 2 as commands (R176). -/
theorem transfersFrom_handshake_four (hc : s.dataCount = .four) (hm : s.ModeOk) (h : s.commandReady ls) (f : Byte) :
    s.transfersFrom ls (handshake s f) =
      [s.transferOf false 4 nibbleReset, s.transferOf false 4 nibbleReset, s.transferOf false 4 nibbleReset,
        s.transferOf false 4 nibbleFourBit] := by
  obtain ⟨ht1, h1⟩ := write4bits_of_commandReady s hc h nibbleReset
  obtain ⟨ht2, h2⟩ := write4bits_of_commandReady s hc h1 nibbleReset
  obtain ⟨ht3, h3⟩ := write4bits_of_commandReady s hc h2 nibbleReset
  obtain ⟨ht4, -⟩ := write4bits_of_commandReady s hc h3 nibbleFourBit
  simp [handshake_fourBit s f (hm.1 hc), State.transfersFrom_append, ht1, ht2, ht3, ht4]

/-- The transfers of the 8-bit handshake: the function set three times (R177). -/
theorem transfersFrom_handshake_eight (hc : s.dataCount = .eight) (hm : s.ModeOk) (f : Byte) :
    s.transfersFrom ls (handshake s f) =
      s.byteTransfers false (cmdFunction f) ++ s.byteTransfers false (cmdFunction f) ++
        s.byteTransfers false (cmdFunction f) := by
  have h0 : s.dataCount ≠ .zero := by simp [hc]
  simp [handshake, handshakeAttempt, hm.2 hc, command, State.transfersFrom_append, transfersFrom_send s _ _ _ h0 hm]

/-- The transfers of BEGIN: the handshake's, then one byte's for each command (R176 to R181). -/
theorem transfersFrom_beginEvents (h0 : s.dataCount ≠ .zero) (hm : s.ModeOk) (rows font : Byte) :
    s.transfersFrom ls (beginEvents s rows font) =
      s.transfersFrom (s.replay (s.replay ls (beginS2 s)) (beginS4 s))
          (handshake s (beginFunction rows font s.function)) ++
        s.byteTransfers false (cmdFunction (beginFunction rows font s.function)) ++
        s.byteTransfers false (cmdControl (beginControl s.control)) ++ s.byteTransfers false cmdClear ++
        s.byteTransfers false (cmdEntryMode (beginEntryMode s.entryMode)) := by
  simp [beginEvents, beginPhaseEvents, command, State.transfersFrom_append, transfersFrom_beginS2,
    transfersFrom_beginS4, transfersFrom_send s _ _ _ h0 hm]

/-- Settles O24: the body runs as its writes, its lines and its transfers; only the handshake's transfers depend on the width. -/
theorem beginResult : Obligations.BeginResult := by
  intro s cols rows font hs h1 h4 hb h0 hm ha
  refine ⟨beginEvents s rows font, ?_, ?_⟩
  · rw [exec_accepted s _ hs (checkOf_begin_eq_none h1 h4 hb h0 ha), bodyOf, run_bodyBegin, replay_beginEvents s _ h0 hm]
    rfl
  · rw [transfersFrom_beginEvents s h0 hm]
    cases hc : s.dataCount with
    | zero => exact absurd hc h0
    | four =>
      rw [transfersFrom_handshake_four s hc hm (commandReady_beginS4 s)]
      rfl
    | eight =>
      rw [transfersFrom_handshake_eight s hc hm]
      rfl

end Sys2Proof.Machine
end

section
/-! PROOFS. The feature toggles (R201 to R209, R214): what one leaves and sends, and the pairs that restore their register
(R228). -/

namespace Sys2Proof.Machine

variable {s : State} {i j : Instr} {ws : List RegWrite}

/-! ### One toggle -/

/-- Settles O29: each request masks `control` and reissues the display-control command. -/
theorem controlTogglesResult : Obligations.ControlTogglesResult := by
  intro s i c ⟨⟨hs, hl⟩, h0, hm⟩ hi
  have htoggle : checkOf i s = checkBus s ∧ bodyOf i s = reissue (regWrites i) (fun t => cmdControl t.control) s ∧
      s.writeAll (regWrites i) = { s with control := c } := by
    obtain ⟨rfl, rfl⟩ | ⟨rfl, rfl⟩ | ⟨rfl, rfl⟩ | ⟨rfl, rfl⟩ := hi <;> exact ⟨rfl, rfl, rfl⟩
  obtain ⟨hc, hb, hws⟩ := htoggle
  refine ⟨send s (cmdControl c) false, ?_, transfersFrom_send s _ _ _ h0 hm, length_send s _ _ h0 hm⟩
  rw [exec_accepted s i hs (hc.trans (checkBus_ready s hl)), hb, run_reissue_control s _ c hws h0 hm]
  rfl

/-- Settles O30: each request masks `entryMode` and reissues the entry-mode command. -/
theorem entryModeTogglesResult : Obligations.EntryModeTogglesResult := by
  intro s i m ⟨⟨hs, hl⟩, h0, hm⟩ hi
  have htoggle : checkOf i s = checkBus s ∧ bodyOf i s = reissue (regWrites i) (fun t => cmdEntryMode t.entryMode) s ∧
      s.writeAll (regWrites i) = { s with entryMode := m } := by
    obtain ⟨rfl, rfl⟩ | ⟨rfl, rfl⟩ | ⟨rfl, rfl⟩ | ⟨rfl, rfl⟩ := hi <;> exact ⟨rfl, rfl, rfl⟩
  obtain ⟨hc, hb, hws⟩ := htoggle
  refine ⟨send s (cmdEntryMode m) false, ?_, transfersFrom_send s _ _ _ h0 hm, length_send s _ _ h0 hm⟩
  rw [exec_accepted s i hs (hc.trans (checkBus_ready s hl)), hb, run_reissue_entryMode s _ m hws h0 hm]
  rfl

/-! ### Masking a register -/

theorem clrBits_eq_self {x m : Byte} (h : x &&& m = 0) : clrBits x m = x := by
  refine BitVec.eq_of_getLsbD_eq fun k hk => ?_
  have hbit : (x.getLsbD k && m.getLsbD k) = false := by simp [← BitVec.getLsbD_and, h]
  cases hm : m.getLsbD k <;> simp_all [clrBits]

theorem setBits_eq_self {x m : Byte} (h : x &&& m = m) : setBits x m = x := by
  refine BitVec.eq_of_getLsbD_eq fun k hk => ?_
  have hbit : (x.getLsbD k && m.getLsbD k) = m.getLsbD k := by rw [← BitVec.getLsbD_and, h]
  cases hm : m.getLsbD k <;> simp_all [setBits]

/-- Setting bits that were 0 and clearing them again changes nothing (R35, R228). -/
theorem writeAll_set_clr (r : ConfReg) {m : Byte} (h : s.conf r &&& m = 0) : s.writeAll [.set r m, .clr r m] = s := by
  have hx := (clrBits_setBits _ _).trans (clrBits_eq_self h)
  cases r with
  | function => exact congrArg (fun x => { s with function := x }) hx
  | control => exact congrArg (fun x => { s with control := x }) hx
  | entryMode => exact congrArg (fun x => { s with entryMode := x }) hx

/-- Clearing bits that were 1 and setting them again changes nothing (R35, R228). -/
theorem writeAll_clr_set (r : ConfReg) {m : Byte} (h : s.conf r &&& m = m) : s.writeAll [.clr r m, .set r m] = s := by
  have hx := (setBits_clrBits _ _).trans (setBits_eq_self h)
  cases r with
  | function => exact congrArg (fun x => { s with function := x }) hx
  | control => exact congrArg (fun x => { s with control := x }) hx
  | entryMode => exact congrArg (fun x => { s with entryMode := x }) hx

/-- What a write leaves in the configuration bytes depends on them alone (R35). -/
theorem conf_write_congr {t : State} (h : s.conf = t.conf) (w : RegWrite) : (s.write w).conf = (t.write w).conf := by
  cases w with
  | set q m | clr q m =>
    funext r
    simp only [State.write, State.putConf_conf, h]
  | _ => exact h

theorem conf_writeAll_congr {t : State} (h : s.conf = t.conf) : (s.writeAll ws).conf = (t.writeAll ws).conf := by
  induction ws generalizing s t with
  | nil => exact h
  | cons w ws ih => exact ih (conf_write_congr h w)

/-! ### Two toggles in a row -/

/-- The feature toggles (R201 to R209). -/
def isToggle : Instr → Bool
  | .displayOn => true
  | .displayOff => true
  | .cursorOn => true
  | .cursorOff => true
  | .autoscrollOn => true
  | .autoscrollOff => true
  | .leftToRight => true
  | .rightToLeft => true
  | _ => false

/-- A toggle has the bus-request check and reissues the command of the register it masks (R200, R214). -/
theorem toggle_check_body (hi : isToggle i = true) (s : State) :
    checkOf i s = checkBus s ∧ ∃ cmd, bodyOf i s = reissue (regWrites i) cmd s := by
  cases i with
  | displayOn | displayOff | cursorOn | cursorOff => exact ⟨rfl, fun t => cmdControl t.control, rfl⟩
  | autoscrollOn | autoscrollOff | leftToRight | rightToLeft =>
    exact ⟨rfl, fun t => cmdEntryMode t.entryMode, rfl⟩
  | _ => cases hi

/-- A toggle leaves in the configuration bytes what its writes leave: no event changes them. -/
theorem conf_run_reissue (cmd : State → Byte) : (s.run (reissue ws cmd s)).conf = (s.writeAll ws).conf := by
  funext r
  rw [reissue, State.run_append, State.run_append, State.run_writes, State.run_emits, State.run_ret]
  cases r <;> rfl

/-- In a READY state a toggle is accepted, makes its writes and leaves the engine READY. -/
theorem exec_toggle (hr : s.Ready) (hi : isToggle i = true) :
    ∃ t, exec i s = .next t ∧ t.Ready ∧ t.conf = (s.writeAll (regWrites i)).conf := by
  obtain ⟨hs, hl⟩ := hr
  obtain ⟨hc, cmd, hb⟩ := toggle_check_body hi s
  have hbegin : ∀ cols rows font, i ≠ .begin cols rows font := by
    rintro cols rows font rfl
    cases hi
  have hlife := run_bodyOf_lifecycle s s hbegin (List.append_nil (bodyOf i s)).symm
  refine ⟨_, exec_accepted s i hs (hc.trans (checkBus_ready s hl)), ⟨(s.run_seq _).trans hs, hlife.trans hl⟩, ?_⟩
  rw [hb, conf_run_reissue]

/-- Two toggles in a row leave in the configuration bytes what the writes of both leave. -/
theorem exec_toggle_toggle (hr : s.Ready) (hi : isToggle i = true) (hj : isToggle j = true) :
    ∃ t u, exec i s = .next t ∧ exec j t = .next u ∧ u.conf = (s.writeAll (regWrites i ++ regWrites j)).conf := by
  obtain ⟨t, ht, htr, htc⟩ := exec_toggle hr hi
  obtain ⟨u, hu, -, huc⟩ := exec_toggle htr hj
  refine ⟨t, u, ht, hu, ?_⟩
  rw [huc, State.writeAll_append, conf_writeAll_congr htc]

/-- Settles O36: the second toggle of a pair writes back the bits the first one wrote over. -/
theorem pairedTogglesRestore : Obligations.PairedTogglesRestore := by
  intro s i j hr hij
  have hpair : isToggle i = true ∧ isToggle j = true ∧ s.writeAll (regWrites i ++ regWrites j) = s := by
    obtain ⟨rfl, rfl, h⟩ | ⟨rfl, rfl, h⟩ | ⟨rfl, rfl, h⟩ | ⟨rfl, rfl, h⟩ | ⟨rfl, rfl, h⟩ |
      ⟨rfl, rfl, h⟩ | ⟨rfl, rfl, h⟩ | ⟨rfl, rfl, h⟩ := hij
    · exact ⟨rfl, rfl, writeAll_set_clr .control h⟩
    · exact ⟨rfl, rfl, writeAll_clr_set .control h⟩
    · exact ⟨rfl, rfl, writeAll_set_clr .control h⟩
    · exact ⟨rfl, rfl, writeAll_clr_set .control h⟩
    · exact ⟨rfl, rfl, writeAll_set_clr .entryMode h⟩
    · exact ⟨rfl, rfl, writeAll_clr_set .entryMode h⟩
    · exact ⟨rfl, rfl, writeAll_set_clr .entryMode h⟩
    · exact ⟨rfl, rfl, writeAll_clr_set .entryMode h⟩
  obtain ⟨hi, hj, hws⟩ := hpair
  obtain ⟨t, u, ht, hu, hconf⟩ := exec_toggle_toggle hr hi hj
  rw [hws] at hconf
  exact ⟨t, u, ht, hu, congrFun hconf .control, congrFun hconf .entryMode⟩

end Sys2Proof.Machine
end

section
/-! PROOFS. The display-state requests that keep no register: SCROLL, CLEAR, HOME, SET_CURSOR and CREATE_CHAR (R210 to R226). -/

namespace Sys2Proof.Machine

variable {s : State} {i j : Instr}

/-! ### Requests that are one COMMAND -/

/-- Two accepted requests with one body do the same (R45). -/
theorem exec_congr (hs : s.seq = .idle) (hi : checkOf i s = none) (hj : checkOf j s = none)
    (hb : bodyOf i s = bodyOf j s) : exec i s = exec j s := by
  rw [exec_accepted s i hs hi, exec_accepted s j hs hj, hb]

/-- What COMMAND does (R155), for every bus request whose body is that of a COMMAND. -/
theorem exec_command_body {v : Byte} (hr : s.BusReady) (hc : checkOf i s = checkBus s)
    (hb : bodyOf i s = bodyCommand v s) :
    ∃ evs : List Event,
      exec i s = .next { s with trace := s.trace ++ evs, lines := s.linesAfter false v s.lines, result := none } ∧
      s.transfersFrom s.lines evs = s.byteTransfers false v ∧ evs.length = s.byteEvents := by
  obtain ⟨hs, hl⟩ := hr.1
  have hbus := checkBus_ready s hl
  rw [exec_congr (j := .command v) hs (hc.trans hbus) hbus hb]
  exact sendCommandWriteResult s _ v false none hr (.inr (.inr (.inl ⟨rfl, rfl, rfl⟩)))

/-- Settles O31: the shift commands are COMMAND 0x18 and COMMAND 0x1C. -/
theorem scrollResult : Obligations.ScrollResult := by
  intro s i v hr hi
  have hcommand : checkOf i s = checkBus s ∧ bodyOf i s = bodyCommand v s := by
    obtain ⟨rfl, rfl⟩ | ⟨rfl, rfl⟩ := hi <;> exact ⟨rfl, rfl⟩
  obtain ⟨evs, hexec, htransfers, -⟩ := exec_command_body hr hcommand.1 hcommand.2
  exact ⟨evs, hexec, htransfers⟩

/-- Settles O32: one command, and a delay that changes no line. -/
theorem clearHomeResult : Obligations.ClearHomeResult := by
  intro s i v ms ⟨⟨hs, hl⟩, h0, hm⟩ hi
  have hbody : checkOf i s = checkBus s ∧ bodyOf i s = emits (command s v ++ [.delayMs ms]) ++ ret none := by
    obtain ⟨rfl, rfl, rfl⟩ | ⟨rfl, rfl, rfl⟩ := hi <;> exact ⟨rfl, rfl⟩
  have hlines : s.replay s.lines (command s v ++ [.delayMs ms]) = s.linesAfter false v s.lines := by
    rw [State.replay_append, command, replay_send s _ _ _ h0 hm]
    rfl
  refine ⟨command s v, ?_, transfersFrom_send s _ _ _ h0 hm, length_send s _ _ h0 hm⟩
  rw [exec_emits i hs (hbody.1.trans (checkBus_ready s hl)) hbody.2, hlines, List.append_assoc]

/-! ### SET_CURSOR -/

/-- A DDRAM command is bit 7 above the address, which is the sum mod 128 (R221). -/
theorem cmdSetDdram_eq_append (sum : BitVec 9) : cmdSetDdram sum = 1#1 ++ sum.setWidth 7 := by
  refine BitVec.eq_of_getLsbD_eq fun k hk => ?_
  rw [BitVec.getLsbD_append]
  interval_cases k <;> simp [cmdSetDdram]

theorem toNat_cmdSetDdram (sum : BitVec 9) : (cmdSetDdram sum).toNat = 128 + sum.toNat % 128 := by
  have hlt : sum.toNat % 2 ^ 7 < 2 ^ 7 := Nat.mod_lt _ (by decide)
  rw [cmdSetDdram_eq_append, BitVec.toNat_append, BitVec.toNat_setWidth, ← Nat.shiftLeft_add_eq_or_of_lt hlt]
  rfl

/-- The sum of a column and a row base does not overflow its 9 bits (R220). -/
theorem toNat_cursorSum (s : State) (col row : Byte) :
    (s.cursorSum col row).toNat = col.toNat + (s.rowBase (s.clampRow row)).toNat := by
  simp only [State.cursorSum, BitVec.toNat_add, BitVec.toNat_setWidth]
  omega

theorem rowBase_eq (s : State) (r : Fin 4) : s.rowBase r.val = s.rowOffset[r] := by
  simp [State.rowBase]

/-- Settles O33: SET_CURSOR is the COMMAND of the clamped row's DDRAM address. -/
theorem setCursorResult : Obligations.SetCursorResult := by
  intro s col row r v hr _ hrow hv
  have hclamp : s.clampRow row = r.val := hrow.symm
  have hcmd : cmdSetDdram (s.cursorSum col row) = v := by
    refine BitVec.eq_of_toNat_eq ?_
    rw [hv, toNat_cmdSetDdram, toNat_cursorSum, hclamp, rowBase_eq]
  refine exec_command_body hr rfl ?_
  rw [← hcmd]
  rfl

/-! ### CREATE_CHAR -/

theorem toNat_maskSlot (slot : Byte) : (maskSlot slot).toNat = slot.toNat % 8 := by
  rw [maskSlot, BitVec.toNat_and]
  exact Nat.and_two_pow_sub_one_eq_mod slot.toNat 3

/-- The CGRAM command of a slot: eight bytes to a slot, from bit 6 on (R72, R107). -/
theorem cmdSetCgram_slot (slot : Byte) :
    cmdSetCgram (maskSlot slot <<< 3) = BitVec.ofNat 8 (0x40 + 8 * (slot.toNat % 8)) := by
  have hlt : slot.toNat % 8 < 8 := Nat.mod_lt _ (by decide)
  refine BitVec.eq_of_toNat_eq ?_
  rw [cmdSetCgram, BitVec.toNat_or, BitVec.toNat_shiftLeft, toNat_maskSlot, BitVec.toNat_ofNat]
  interval_cases slot.toNat % 8 <;> rfl

/-- The events of CREATE_CHAR with pattern `ps`: a command, then data bytes (R225). -/
def createCharEvents (s : State) (slot : Byte) (ps : List Byte) : List Event :=
  command s (BitVec.ofNat 8 (0x40 + 8 * (slot.toNat % 8))) ++ ps.flatMap fun p => send s p true

theorem bodyOf_createChar (slot p0 p1 p2 p3 p4 p5 p6 p7 : Byte) (s : State) :
    bodyOf (.createChar slot p0 p1 p2 p3 p4 p5 p6 p7) s =
      emits (createCharEvents s slot [p0, p1, p2, p3, p4, p5, p6, p7]) ++ ret none := by
  rw [createCharEvents, ← cmdSetCgram_slot]
  rfl

/-- The last data byte stays on the lines. -/
theorem replay_createCharEvents (h0 : s.dataCount ≠ .zero) (hm : s.ModeOk) (ls : Lines) (slot : Byte) {ps : List Byte}
    {v : Byte} (hlast : ps.getLast? = some v) : s.replay ls (createCharEvents s slot ps) = s.linesAfter true v ls := by
  rw [createCharEvents, State.replay_append, command, replay_send s _ _ _ h0 hm, replay_dataBytes s h0 hm, hlast]
  exact linesAfter_linesAfter s _ _ _ _ ls

/-- Settles O34: one command and eight data bytes. -/
theorem createCharResult : Obligations.CreateCharResult := by
  intro s slot p0 p1 p2 p3 p4 p5 p6 p7 ⟨⟨hs, hl⟩, h0, hm⟩
  refine ⟨createCharEvents s slot [p0, p1, p2, p3, p4, p5, p6, p7], ?_, ?_, ?_⟩
  · have hc : checkOf (.createChar slot p0 p1 p2 p3 p4 p5 p6 p7) s = none := checkBus_ready s hl
    rw [exec_emits _ hs hc (bodyOf_createChar slot p0 p1 p2 p3 p4 p5 p6 p7 s),
      replay_createCharEvents (v := p7) h0 hm s.lines slot rfl]
  · rw [createCharEvents, State.transfersFrom_append, command, transfersFrom_send s _ _ _ h0 hm,
      transfersFrom_dataBytes s h0 hm]
  · rw [createCharEvents, List.length_append, command, length_send s _ _ h0 hm, length_dataBytes s h0 hm]
    simp only [List.length_cons, List.length_nil]
    omega

/-- Settles O35: the body of CREATE_CHAR reads the slot mod 8 only. -/
theorem createCharMasksSlot : Obligations.CreateCharMasksSlot := by
  intro s slot slot' p0 p1 p2 p3 p4 p5 p6 p7 ⟨hs, hl⟩ hslot
  have hbus := checkBus_ready s hl
  refine exec_congr hs hbus hbus ?_
  rw [bodyOf_createChar, bodyOf_createChar, createCharEvents, createCharEvents, hslot]

end Sys2Proof.Machine
end

section
/-! PROOFS. The character stream writer PRINT (R240 to R244): its expansion, and what it leaves and transfers. -/

namespace Sys2Proof.Machine

variable {n : Byte} {text : List Byte}

/-- The bytes of a text before its first 0x00 (R243). -/
def printedBytes (text : List Byte) : List Byte := text.takeWhile (· ≠ 0x00)

theorem length_printedBytes_le (hlen : text.length = n.toNat) : (printedBytes text).length ≤ 255 :=
  calc (printedBytes text).length
    _ ≤ text.length := (List.takeWhile_prefix _).length_le
    _ = n.toNat := hlen
    _ ≤ 255 := Nat.le_of_lt_succ n.isLt

/-- A well-formed PRINT sends the bytes before the first 0x00 as data and returns their number; the early return of an empty
text (R241) is the case of no such byte. -/
theorem bodyPrint_eq (s : State) (hlen : text.length = n.toNat) :
    bodyPrint n text s =
      emits ((printedBytes text).flatMap fun p => send s p true) ++ ret (some (BitVec.ofNat 8 (printedBytes text).length)) := by
  by_cases hn : n = 0
  · have hempty : text = [] := List.length_eq_zero_iff.1 (by simpa [hn] using hlen)
    rw [bodyPrint, if_pos hn, hempty]
    rfl
  · rw [bodyPrint, if_neg hn, ← hlen, List.take_length, printLoop_eq, Nat.zero_add]
    rfl

/-- Settles O37: PRINT is one sequence of data bytes. -/
theorem printResult : Obligations.PrintResult := by
  intro s n text ⟨⟨hs, hl⟩, h0, hm⟩ hlen
  have hexec := exec_emits (.print n text) hs (checkBus_ready s hl) (bodyPrint_eq s hlen)
  rw [replay_dataBytes s h0 hm] at hexec
  exact ⟨_, hexec, transfersFrom_dataBytes s h0 hm s.lines _, length_dataBytes s h0 hm _, length_printedBytes_le hlen⟩

end Sys2Proof.Machine
end

section
/-! PROOFS. Refusals and completion (R250 to R258, R302): the port of a running request, what a refusal leaves, and that every
step answers a next state. -/

namespace Sys2Proof.Machine

variable {s : State} {bytes : List Byte} {later : List Input}

/-! ### Refusals -/

/-- A presentation while a request runs is refused with all its bytes, whether or not the host waits (R258). -/
theorem step_of_busy {req : Instr} {pos : Nat} {rest : List Micro} (hs : s.seq = .busy req pos rest)
    (hin : s.inputs = .call bytes :: later ∨ s.inputs = .post bytes :: later) :
    step s = .next { s with inputs := later, refused := true, lastRefusal := some (.busy, bytes) } := by
  obtain hcall | hpost := hin
  · simp [step, serveInputs, serveCall, hcall, hs, State.refuse]
  · simp [step, serveInputs, servePost, hpost, hs, State.refuse]

/-- Settles O9: at the port and in `exec` alike, a running request refuses before anything is decoded or checked. -/
theorem busyPortRefuses : Obligations.BusyPortRefuses :=
  ⟨fun _ _ _ _ _ _ hs hin => step_of_busy hs hin, fun s _ _ _ i hs => exec_busy s i hs⟩

/-- The bytes a refusal records are the whole presentation or the request it starts with (R253). -/
theorem prefix_of_recorded {presented : List Byte}
    (h : bytes = presented ∨ ∃ i rest, decode presented = .ok (i, rest) ∧ bytes = encode i) : bytes <+: presented := by
  obtain rfl | ⟨i, rest, hd, rfl⟩ := h
  · exact List.prefix_refl _
  · obtain ⟨-, hbytes⟩ := encode_of_decode hd
    exact ⟨rest, hbytes.symm⟩

/-- Settles O8: of the four things a step does only a refusal writes the record, and it writes nothing else but the mark. -/
theorem refusalChangesOnlyTheMark : Obligations.RefusalChangesOnlyTheMark := by
  constructor
  · intro s t h hne
    obtain ⟨inp, -, rfl⟩ | ⟨presented, later, inp, r, bytes, hin, hbytes, rfl⟩ | ⟨i, inp, -, -, rfl⟩ | ⟨i, inp, -, -, rfl⟩ :=
      step_cases h
    · exact absurd (advance_lastRefusal _) hne
    · exact ⟨rfl, r, bytes, presented, later, rfl, prefix_of_recorded hbytes, hin⟩
    · exact absurd (State.run_lastRefusal _ _) hne
    · exact absurd rfl hne
  · exact fun s i r hs hc => exec_refused s i hs hc

/-! ### Completion -/

/-- Every request has a meaning in every state: it is refused or runs its body (R250, R251). -/
theorem exec_total (i : Instr) (s : State) : ∃ t, exec i s = .next t := by
  cases hs : s.seq with
  | busy req pos rest => exact ⟨_, exec_busy s i hs⟩
  | idle =>
    cases hc : checkOf i s with
    | some r => exact ⟨_, exec_refused s i hs hc⟩
    | none => exact ⟨_, exec_accepted s i hs hc⟩

/-- A presentation the host waits for is answered: `busy`, with the decoder's reason, or as its request (R258, R100). -/
theorem step_call_total (hin : s.inputs = .call bytes :: later) : ∃ t, step s = .next t := by
  cases hs : s.seq with
  | busy req pos rest => exact ⟨_, step_of_busy hs (.inl hin)⟩
  | idle =>
    cases hd : decode bytes with
    | error r => exact ⟨_, step_of_decode_error hs (.inl hin) hd⟩
    | ok d =>
      rw [step_call_of_decode hs hin hd]
      exact exec_total _ _

/-- No step faults or is without meaning, whatever the host does next (R250). -/
theorem step_total (s : State) : ∃ t, step s = .next t := by
  cases hin : s.inputs with
  | nil => exact ⟨_, step_of_inputs_nil s hin⟩
  | cons input later =>
    cases input with
    | wait => exact ⟨_, step_of_inputs_wait hin⟩
    | post bytes => exact ⟨servePost bytes later s, by simp [step, serveInputs, hin]⟩
    | call bytes => exact step_call_total hin

/-- Settles O47: steps are total, and a running request left alone needs one step for each event left and one to return. -/
theorem everyStepCompletes : Obligations.EveryStepCompletes :=
  ⟨step_total, fun _ _ _ _ hs hin => ⟨_, _, le_rfl, core_run_busy hin hs, rfl⟩⟩

end Sys2Proof.Machine
end

section
/-! PROOFS. Engines side by side (R271, R272): what the events of one engine's step make of another engine's lines. -/

namespace Sys2Proof.Machine

/-- When engine `k` steps, another engine observes exactly the events of that step (R272). -/
theorem stepAt_getElem?_observe {y z : System} {k j : Nat} {u s t : State} (h : System.stepAt k y = .next z) (hj : j ≠ k)
    (hu : y.engines[j]? = some u) (hk : y.engines[k]? = some s) (hstep : step s = .next t) :
    z.engines[j]? = some (u.observe (newEvents s t)) := by
  have hz : z = ⟨replaceAt t (newEvents s t) k 0 y.engines⟩ := by
    simpa [System.stepAt, hk, hstep] using h.symm
  rw [hz, replaceAt_getElem?, hu, Option.map_some, if_neg (by omega)]

/-- Settles O57: the other engine observes the step's events, and its lines are read role by role. -/
theorem foreignEventsReachSharedPins : Obligations.ForeignEventsReachSharedPins := by
  intro y z k j u s t h hj hu hk hstep
  refine ⟨_, stepAt_getElem?_observe h hj hu hk hstep, fun r hr => ?_, fun r hr => ?_⟩
  · rw [observe_lines_get, if_pos hr]
  · rw [observe_lines_get, if_neg hr]

/-- An event that does not name a pin leaves the level of that pin (R53). -/
theorem onPin_of_not_named {pin : Port × Byte} {e : Event} (hc : ∀ p q, e = .configureOutput p q → pin ≠ (p, q))
    (hl : ∀ x p q b, e = .setLevel x p q b → pin ≠ (p, q)) (l : Level) : l.onPin pin e = l := by
  cases e with
  | enableClock | delayMs => rfl
  | configureOutput p q => exact if_neg fun hp => hc p q rfl hp.1
  | setLevel x p q b => exact if_neg (hl x p q b rfl)

/-- An engine each of whose active lines keeps its level under every event is left as it was (R271). -/
theorem observe_eq_self {u : State} {es : List Event}
    (h : ∀ e ∈ es, ∀ r ∈ u.activeRoles, ∀ l : Level, l.onPin (u.resolve r) e = l) : u.observe es = u := by
  have hlines : (u.observe es).lines = u.lines := by
    refine Lines.ext_get fun r => ?_
    rw [observe_lines_get, ite_eq_right_iff]
    intro hr
    exact List.foldlRecOn (motive := (· = u.lines.get r)) es _ rfl fun l hl e he => (h e he r hr l).trans hl
  calc u.observe es
    _ = { u with lines := (u.observe es).lines } := rfl
    _ = u := by rw [hlines]

/-- Settles O56: the step names none of the other engine's pins, so each event leaves the level of each of its lines. -/
theorem disjointPinsAreUntouched : Obligations.DisjointPinsAreUntouched := by
  intro y z k j u s t h hj hu hk hstep hdisjoint
  have hself : u.observe (newEvents s t) = u := by
    refine observe_eq_self fun e he r hr => ?_
    obtain ⟨hc, hl⟩ := hdisjoint e he r hr
    exact onPin_of_not_named hc hl
  rw [stepAt_getElem?_observe h hj hu hk hstep, hself]

end Sys2Proof.Machine
end

section
/-! PROOFS. The least durations of the requests (R300): the delays of a list of events add up along its parts, at default timings
they make the table, and no schedule is shorter than they are (R58). -/

namespace Sys2Proof.Machine

/-! ### The least duration of a list of events -/

@[simp] theorem minDuration_append (a b : List Event) : minDuration (a ++ b) = minDuration a + minDuration b := by
  simp [minDuration]

/-- Only delays have a least duration (R58). -/
theorem minDuration_eq_sum_delaysOf (es : List Event) : minDuration es = (delaysOf es).sum := by
  induction es with
  | nil => rfl
  | cons e es ih =>
    have hcons : minDuration (e :: es) = e.minMs + (delaysOf es).sum := congrArg (e.minMs + ·) ih
    rw [hcons]
    cases e with
    | delayMs n => exact List.sum_cons.symm
    | enableClock | configureOutput | setLevel => exact Nat.zero_add _

/-- Each event of a schedule takes at least its least duration, so the schedule takes at least their sum (R58, R83). -/
theorem add_minDuration_le_of_respects {es : List Event} {times : List Nat} {first last : Nat}
    (h : respects es times = true) (hf : times.head? = some first) (hl : times.getLast? = some last) :
    first + minDuration es ≤ last := by
  fun_induction respects es times generalizing first with
  | case1 t =>
    obtain rfl : t = first := by simpa using hf
    obtain rfl : t = last := by simpa using hl
    exact le_rfl
  | case2 e es t u ts ih =>
    obtain rfl : t = first := by simpa using hf
    obtain ⟨hstep, hrest⟩ : t + e.minMs ≤ u ∧ respects es (u :: ts) = true := by simpa using h
    have htail : u + minDuration es ≤ last := ih hrest rfl (by rwa [List.getLast?_cons_cons] at hl)
    calc t + minDuration (e :: es)
      _ = t + e.minMs + minDuration es := by rw [minDuration, List.map_cons, List.sum_cons, Nat.add_assoc]; rfl
      _ ≤ u + minDuration es := Nat.add_le_add_right hstep _
      _ ≤ last := htail
  | case3 => cases h

/-! ### Durations at default timings -/

/-- The least duration of one transmitted byte at default timings: one pulse, or one for each nibble (R154, R300). -/
def byteMs (eight : Bool) : Nat := if eight then 3 else 6

variable {s : State} {i : Instr}

theorem State.pulseDelays_default (ht : s.cfg.DefaultTimings) : s.pulseDelays = [1, 1, 1] := by
  obtain ⟨-, -, -, -, hpre, hhigh, hsettle, -⟩ := ht
  rw [State.pulseDelays, hpre, hhigh, hsettle]

theorem minDuration_pulseEnable (ht : s.cfg.DefaultTimings) : minDuration (pulseEnable s) = 3 := by
  have hdelays : delaysOf (pulseEnable s) = s.pulseDelays := rfl
  rw [minDuration_eq_sum_delaysOf, hdelays, State.pulseDelays_default ht]
  rfl

theorem minDuration_driveLines (ix : List (Fin 8)) (v : Byte) : minDuration (driveLines s ix v) = 0 := by
  simp [minDuration, driveLines, State.setLevel, Event.minMs, Function.comp_def]

theorem minDuration_write4bits (ht : s.cfg.DefaultTimings) (v : Byte) : minDuration (write4bits s v) = 3 := by
  rw [write4bits, minDuration_append, minDuration_driveLines, minDuration_pulseEnable ht]

theorem minDuration_write8bits (ht : s.cfg.DefaultTimings) (v : Byte) : minDuration (write8bits s v) = 3 := by
  rw [write8bits, minDuration_append, minDuration_driveLines, minDuration_pulseEnable ht]

theorem minDuration_command (ht : s.cfg.DefaultTimings) (v : Byte) : minDuration (command s v) = byteMs s.dl := by
  rw [minDuration_eq_sum_delaysOf, delaysOf_command, State.pulseDelays_default ht]
  cases s.dl <;> rfl

/-- The level of RS makes no difference to the delays of a byte. -/
theorem minDuration_send (ht : s.cfg.DefaultTimings) (v : Byte) (rs : Bool) : minDuration (send s v rs) = byteMs s.dl := by
  have hrs : delaysOf (send s v rs) = delaysOf (command s v) := rfl
  rw [minDuration_eq_sum_delaysOf, hrs, ← minDuration_eq_sum_delaysOf, minDuration_command ht]

theorem minDuration_dataBytes (ht : s.cfg.DefaultTimings) (ps : List Byte) :
    minDuration (ps.flatMap fun p => send s p true) = byteMs s.dl * ps.length := by
  induction ps with
  | nil => rfl
  | cons p ps ih => rw [List.flatMap_cons, minDuration_append, ih, minDuration_send ht, List.length_cons, Nat.mul_succ,
      Nat.add_comm]

/-- BEGIN waits for the settle, three attempts of the handshake and the clear, and sends four commands (R185). -/
theorem minDuration_beginEvents (ht : s.cfg.DefaultTimings) (rows font : Byte) :
    minDuration (beginEvents s rows font) = if s.dl then 84 else 99 := by
  have hpulse := State.pulseDelays_default ht
  obtain ⟨hpower, hinit1, hinit2, hinit3, -, -, -, hclear, -⟩ := ht
  rw [minDuration_eq_sum_delaysOf]
  cases hd : s.dl <;>
    simp [beginEvents, beginPhaseEvents, delaysOf_beginS2, delaysOf_beginS4, delaysOf_handshake, delaysOf_command,
      hpulse, hpower, hinit1, hinit2, hinit3, hclear, hd]

/-! ### The events of each request -/

/-- A toggle emits one command, of the state it is accepted in but for the register it masks (R214). -/
theorem eventsOf_toggle (hi : isToggle i = true) (s : State) : ∃ v, eventsOf (bodyOf i s) = command s v := by
  obtain ⟨-, cmd, hb⟩ := toggle_check_body hi s
  have hbinding : isBinding i = false := by
    cases i with
    | bindCtrl | bindData4 | bindData8 => cases hi
    | _ => rfl
  have hkeeps : ∀ w ∈ writesOf (writes (regWrites i)), w.keepsBus = true := by
    rw [writesOf_writes]
    exact regWrites_keepsBus hbinding
  have hmap := s.run_sameMap hkeeps
  have hdl := s.run_dl hkeeps
  rw [State.run_writes] at hmap hdl
  refine ⟨cmd (s.writeAll (regWrites i)), ?_⟩
  rw [command, ← send_congr hmap hdl]
  simp [hb, reissue, command]

/-- PRINT emits the bytes of its text before the first 0x00, well-formed or not (R240, R243). -/
theorem eventsOf_bodyPrint (n : Byte) (text : List Byte) (s : State) :
    eventsOf (bodyPrint n text s) = (printedBytes (text.take n.toNat)).flatMap fun p => send s p true := by
  by_cases hn : n = 0
  · simp [bodyPrint, hn, printedBytes]
  · rw [bodyPrint, if_neg hn, printLoop_eq, eventsOf_append, eventsOf_emits, eventsOf_ret, List.append_nil]
    rfl

theorem minDuration_toggle (ht : s.cfg.DefaultTimings) (hi : isToggle i = true) :
    minDuration (eventsOf (bodyOf i s)) = byteMs s.dl := by
  obtain ⟨v, hv⟩ := eventsOf_toggle hi s
  rw [hv, minDuration_command ht]

/-- CLEAR and HOME wait after their command (R212, R213). -/
theorem minDuration_command_delay (ht : s.cfg.DefaultTimings) (v : Byte) {n : Nat} (hn : n = 2) :
    minDuration (command s v ++ [.delayMs n]) = if s.dl then 5 else 8 := by
  rw [minDuration_append, minDuration_command ht, hn]
  cases s.dl <;> rfl

theorem minDuration_createCharEvents (ht : s.cfg.DefaultTimings) (slot : Byte) (ps : List Byte) :
    minDuration (createCharEvents s slot ps) = byteMs s.dl * (ps.length + 1) := by
  rw [createCharEvents, minDuration_append, minDuration_command ht, minDuration_dataBytes ht, Nat.mul_succ, Nat.add_comm]

/-! ### The table -/

/-- A request that only emits events and returns takes the time of its events. -/
theorem minDuration_emitted (es : List Event) (v : Option Byte) :
    minDuration (eventsOf (emits es ++ ret v)) = minDuration es := by
  simp

/-- What a request emits takes the table's least duration, in the mode DL says (R300). -/
theorem minDuration_bodyOf (ht : s.cfg.DefaultTimings) (i : Instr) :
    minDuration (eventsOf (bodyOf i s)) = tableMs s.dl i := by
  cases i with
  | bindCtrl | bindData4 | bindData8 => rfl
  | begin cols rows font =>
    rw [bodyOf, eventsOf_bodyBegin_eq, minDuration_beginEvents ht]
    rfl
  | pulseEnable => exact (minDuration_emitted _ _).trans (minDuration_pulseEnable ht)
  | write4bits v => exact (minDuration_emitted _ _).trans (minDuration_write4bits ht v)
  | write8bits v => exact (minDuration_emitted _ _).trans (minDuration_write8bits ht v)
  | send | command | write | scrollLeft | scrollRight | setCursor =>
    exact (minDuration_emitted _ _).trans (minDuration_send ht _ _)
  | displayOn | displayOff | cursorOn | cursorOff | autoscrollOn | autoscrollOff | leftToRight | rightToLeft =>
    exact minDuration_toggle ht rfl
  | clear =>
    refine (minDuration_emitted _ _).trans (minDuration_command_delay ht _ ?_)
    obtain ⟨-, -, -, -, -, -, -, hclear, -⟩ := ht
    exact hclear
  | home =>
    refine (minDuration_emitted _ _).trans (minDuration_command_delay ht _ ?_)
    obtain ⟨-, -, -, -, -, -, -, -, hhome⟩ := ht
    exact hhome
  | createChar slot p0 p1 p2 p3 p4 p5 p6 p7 =>
    rw [bodyOf_createChar, minDuration_emitted, minDuration_createCharEvents ht]
    cases s.dl <;> rfl
  | print n text =>
    rw [bodyOf, eventsOf_bodyPrint, minDuration_dataBytes ht]
    rfl

/-- The table's mode is the one DL says, where it matters: a binding takes no time in either (R42, R300). -/
theorem tableMs_eight_eq_tableMs_dl (h : isBinding i = true ∨ (s.dataCount ≠ .zero ∧ s.ModeOk)) :
    tableMs (s.dataCount = .eight) i = tableMs s.dl i := by
  obtain hb | ⟨h0, hm⟩ := h
  · cases i with
    | bindCtrl | bindData4 | bindData8 => rfl
    | _ => cases hb
  · have hmode : decide (s.dataCount = .eight) = s.dl := by rw [← Bool.decide_coe s.dl, decide_eq_decide, hm.dl_iff h0]
    rw [hmode]

/-- Settles O39: the delays of a request's expansion make the table of its mode. -/
theorem minimumDurations : Obligations.MinimumDurations := by
  intro s i hs hc hmode ht
  refine ⟨_, exec_accepted s i hs hc, ?_⟩
  rw [newEvents_run, minDuration_bodyOf ht, tableMs_eight_eq_tableMs_dl hmode]

/-- Settles O40: a schedule takes at least the delays, whose sum is the table's value. -/
theorem schedulesTakeAtLeastTheDelays : Obligations.SchedulesTakeAtLeastTheDelays := by
  intro s t i times first last hs hc hmode ht hexec hrespects hfirst hlast
  obtain ⟨u, hu, hduration⟩ := minimumDurations s i hs hc hmode ht
  obtain rfl : u = t := Host.Outcome.next.inj (hu.symm.trans hexec)
  rw [← hduration]
  exact add_minDuration_le_of_respects hrespects hfirst hlast

end Sys2Proof.Machine
end
